-- ==== Sys2Proof/Word.lean ====
section
/-! DEFINITION. The word type. Every value of a frame is one unsigned byte (spec/20_memory.md R26, 00_scope.md R7). -/

namespace Sys2Proof

/-- `u8`: an unsigned 8-bit value (00_scope.md R7). -/
abbrev Byte := BitVec 8

end Sys2Proof
end

