-- ==== Sys2Proof/Machine/Params.lean ====
section
/-! DEFINITION. The fixed parameters of the block, under the names of spec/00_scope.md R6. The source's literals are
unaudited (93_implementation_defined.md I10), so each stands in one place. -/

namespace Sys2Proof.Machine

/-- `HEAD`: the first byte of every frame. -/
def Param.head : Byte := 0xA0
/-- `BROADCAST_ADDR`: the broadcast reader address (30_encoding.md R43). -/
def Param.broadcastAddr : Byte := 0xFF
/-- `MAX_CMD_PAYLOAD`, in bytes. -/
def Param.maxCmdPayload : Nat := 26
/-- `MAX_RSP_DATA`, in bytes. -/
def Param.maxRspData : Nat := 27
/-- `MIN_FRAME`, in bytes. -/
def Param.minFrame : Nat := 5
/-- `LEN_OVERHEAD`: the length byte is the number of payload or data bytes plus this (30_encoding.md R39; 90_conflicts.md C1). -/
def Param.lenOverhead : Nat := 3
/-- `TAG_THRESHOLD`: a tag frame has more data bytes than this. -/
def Param.tagThreshold : Nat := 10
/-- `TAG_MIN_DATA`: a tag frame with fewer data bytes is truncated. -/
def Param.tagMinData : Nat := 15
/-- `EPC_LEN`, in bytes. -/
def Param.epcLen : Nat := 12
/-- `FIFO_DEPTH`, in events. -/
def Param.fifoDepth : Nat := 10
/-- `POLL_PERIOD_MS`. -/
def Param.pollPeriodMs : Nat := 100
/-- `RELOCK_DELAY_MS`. -/
def Param.relockDelayMs : Nat := 4000
/-- `HOST_PACING_MS`: the host policy's; no rule of the block enforces it (70_reset_and_hazards.md R127). -/
def Param.hostPacingMs : Nat := 100
/-- `TICK_MS`. -/
def Param.tickMs : Nat := 1
/-- `OVR_PRESSED_LEVEL`: the override input is active-low (43_lock_controller.md R90). -/
def Param.ovrPressedLevel : Bool := false
/-- The model identifier (00_scope.md R2, 92_eei_decisions.md D1). -/
def Param.identifier : String := "VM5F-CORE"

end Sys2Proof.Machine
end

