-- ==== Sys2Proof/Machine/Values.lean ====
section
/-! DEFINITION. The value types the block's operations pass (spec/10_state.md R12 to R17, R24). -/

namespace Sys2Proof.Machine

/-- A command packet: "constructed immediately before transmission ... not retained", so no field of State (R12). -/
structure CommandPacket where
  head : Byte
  length : Byte
  address : Byte
  command : Byte
  payload : List Byte
  checksum : Byte
deriving DecidableEq, Repr

/-- A decoded response frame: six wire fields, and the two the decoder computes (R13). -/
structure ResponseFrame where
  head : Byte
  length : Byte
  address : Byte
  command : Byte
  data : List Byte
  checksum : Byte
  /-- The checksum recomputed over the received bytes. -/
  chkCalc : Byte
  /-- `chkCalc = checksum`. -/
  chkOk : Bool
deriving DecidableEq, Repr

/-- The kinds of decode error (R14). They are result values, not traps (60_exceptions.md R100). -/
inductive FrameError where
  /-- The chunk holds fewer than 5 bytes. -/
  | tooShort
  /-- Byte 0 is not the head byte. -/
  | badHeader
  /-- The declared length fits neither the chunk nor the frame limits. -/
  | lengthMismatch
  /-- Strict mode only: the checksum does not match. -/
  | checksumMismatch
deriving DecidableEq, Repr

/-- The states of the lock controller (R15; the name `Engaged` by 90_conflicts.md C3). -/
inductive LockState where
  | idle
  | engaged
  | waitingForOverride
  | relocking
deriving DecidableEq, Repr

/-- The logical condition of the actuator (R16). -/
inductive ActCond where
  | secured
  | released
deriving DecidableEq, Repr

/-- A tag event: byte values, never a pointer into a buffer (R17). The widths of `pc` (2), `epc` (12) and `trailing`
(0 to 12) are `TagEvent.wf`. -/
structure TagEvent where
  ant : Byte
  pc : List Byte
  epc : List Byte
  trailing : List Byte
deriving DecidableEq, Repr

/-- Why a request is refused (60_exceptions.md R101, R104). -/
inductive RefuseReason where
  /-- ENCODE with more than 26 payload bytes (40_frame_codec.md R50). -/
  | payloadTooLong
  /-- A catalog mnemonic with the wrong payload size (41_command_catalog.md R61). -/
  | badOperandCount
  /-- SET_READER_ADDRESS with the broadcast address (41_command_catalog.md R75). -/
  | addressOutOfRange
deriving DecidableEq, Repr

/-- The observable events of `hist` (R24). -/
inductive Event where
  /-- `Tx(bytes)`: a packet handed to the transport. -/
  | tx (bytes : List Byte)
  /-- `RxFrame(frame)`: a chunk decoded. -/
  | rxFrame (f : ResponseFrame)
  /-- `RxError(kind)`: a chunk dropped. -/
  | rxError (k : FrameError)
  /-- `RxEmpty`: a zero-length read. -/
  | rxEmpty
  /-- `Pushed(e)`: an event entered the FIFO. -/
  | pushed (e : TagEvent)
  /-- `Popped(e)`: an event left the FIFO. -/
  | popped (e : TagEvent)
  /-- `Drive(act)`: the actuator output was written. -/
  | drive (a : ActCond)
  /-- `Sample(pin)`: the override pin was read. -/
  | sample (pin : Bool)
  /-- `Refused(reason)`: a request was refused. -/
  | refused (r : RefuseReason)
deriving DecidableEq, Repr

end Sys2Proof.Machine
end

