-- ==== Sys2Proof/Machine/Codec.lean ====
section
/-! DEFINITION. The frame codec as pure functions: the frame format and checksum of spec/30_encoding.md, and ENCODE,
ToBytes, VERIFY and DECODE of spec/40_frame_codec.md. -/

namespace Sys2Proof.Machine

/-- `s[i]`, which the rules use for `i < len(s)` only (00_scope.md R7); past the end it is 0 and no rule reads it. -/
def byteAt (s : List Byte) (i : Nat) : Byte := s.getD i 0

/-- The half-open slice `s[a:b)`, empty when `b <= a` (00_scope.md R7). -/
def slice (s : List Byte) (a b : Nat) : List Byte := (s.take b).drop a

/-- `sum(s)`: the sum of the bytes as a `nat`, with no truncation (00_scope.md R7). -/
def byteSum : List Byte → Nat
  | [] => 0
  | b :: s => b.toNat + byteSum s

/-- `Checksum(s) = (sum(s) * 0xFF) mod 256` (30_encoding.md R41), over every byte before the checksum byte. -/
def checksumOf (s : List Byte) : Byte := BitVec.ofNat 8 (byteSum s * 0xFF)

/-- The bytes before the checksum: head, length, address, command, payload (30_encoding.md R38, R39). -/
def frameBody (cmd addr : Byte) (p : List Byte) : List Byte :=
  [Param.head, BitVec.ofNat 8 (p.length + Param.lenOverhead), addr, cmd] ++ p

/-- The packet of rule R50 for a payload within the limit. -/
def packetOf (cmd : Byte) (p : List Byte) (addr : Byte) : CommandPacket :=
  { head := Param.head
    length := BitVec.ofNat 8 (p.length + Param.lenOverhead)
    address := addr
    command := cmd
    payload := p
    checksum := checksumOf (frameBody cmd addr p) }

/-- `ENCODE(cmd, p, addr)` (40_frame_codec.md R50): any command, any address, at most 26 payload bytes. -/
def encodePacket (cmd : Byte) (p : List Byte) (addr : Byte) : Except RefuseReason CommandPacket :=
  if p.length > Param.maxCmdPayload then .error .payloadTooLong else .ok (packetOf cmd p addr)

/-- `ToBytes(k)` (40_frame_codec.md R51): the wire bytes, in field order (20_memory.md R26). -/
def CommandPacket.toBytes (k : CommandPacket) : List Byte :=
  [k.head, k.length, k.address, k.command] ++ k.payload ++ [k.checksum]

/-- A command packet is well-formed (10_state.md R12). -/
def CommandPacket.wf (k : CommandPacket) : Bool :=
  k.head == Param.head && k.length.toNat == k.payload.length + Param.lenOverhead
    && k.checksum == checksumOf ([k.head, k.length, k.address, k.command] ++ k.payload)
    && decide (k.payload.length ≤ Param.maxCmdPayload)

/-- The wire bytes of a request: `ToBytes(ENCODE(cmd, p, addr))` for a payload within the limit. -/
def frameBytes (cmd addr : Byte) (p : List Byte) : List Byte := (packetOf cmd p addr).toBytes

/-- `LengthFits(L, m)` (40_frame_codec.md R55): the length byte `L` spells a response frame, and the chunk of `m` bytes
holds all of it. -/
def lengthFits (L m : Nat) : Bool :=
  decide (Param.lenOverhead ≤ L) && decide (L - Param.lenOverhead ≤ Param.maxRspData) && decide (L + 2 ≤ m)

/-- The frame DECODE reads from a chunk whose length byte is `L`, before the checksum is judged (40_frame_codec.md R53).
Only the bytes `c[0 : L + 2)` are read (20_memory.md R30). -/
def frameAt (c : List Byte) (L : Nat) : ResponseFrame :=
  let n := L - Param.lenOverhead
  let ck := checksumOf (slice c 0 (4 + n))
  { head := byteAt c 0
    length := byteAt c 1
    address := byteAt c 2
    command := byteAt c 3
    data := slice c 4 (4 + n)
    checksum := byteAt c (4 + n)
    chkCalc := ck
    chkOk := ck == byteAt c (4 + n) }

/-- `DECODE(c)` (40_frame_codec.md R53), with the setting `STRICT_CHECKSUM` as its argument (R56). The checks stand in
the order of R54. The head is read at byte 0 only, and bytes past the frame are ignored (R57). -/
def decodeFrame (strict : Bool) (c : List Byte) : Except FrameError ResponseFrame :=
  if c.length < Param.minFrame then .error .tooShort
  else if byteAt c 0 ≠ Param.head then .error .badHeader
  else if lengthFits (byteAt c 1).toNat c.length = false then .error .lengthMismatch
  else
    let f := frameAt c (byteAt c 1).toNat
    if strict && !f.chkOk then .error .checksumMismatch else .ok f

/-- The bytes VERIFY is defined on: they pass DECODE's structural checks (at least 5 bytes, the head byte, `LengthFits`), and
they are exactly as many as the length byte says (40_frame_codec.md R52). -/
def verifyDomain (s : List Byte) : Bool :=
  decide (Param.minFrame ≤ s.length) && byteAt s 0 == Param.head && lengthFits (byteAt s 1).toNat s.length
    && decide (s.length = (byteAt s 1).toNat + 2)

/-- `VERIFY(s)` (40_frame_codec.md R52): does the checksum byte match. Outside its domain the call is refused, which is
`none` here (92_eei_decisions.md D19; log entry 16). -/
def verify (s : List Byte) : Option Bool :=
  if verifyDomain s then
    let n := (byteAt s 1).toNat - Param.lenOverhead
    some (checksumOf (slice s 0 (4 + n)) == byteAt s (4 + n))
  else none

/-- A response frame keeps the shape of 10_state.md R13: the head, the data length the length byte gives, at most 27 data
bytes, and the two computed fields. -/
def ResponseFrame.wf (f : ResponseFrame) : Bool :=
  f.head == Param.head && decide (f.data.length + Param.lenOverhead = f.length.toNat)
    && decide (f.data.length ≤ Param.maxRspData)
    && f.chkCalc == checksumOf ([f.head, f.length, f.address, f.command] ++ f.data)
    && f.chkOk == (f.chkCalc == f.checksum)

end Sys2Proof.Machine
end

