-- ==== Sys2Proof/Machine/Operands.lean ====
section
/-! DEFINITION. The operand forms of a request (spec/30_encoding.md R46, R49; 41_command_catalog.md R61): an address byte,
and 0, 1 or 3 payload bytes for a catalog command, 0 to 26 for ENCODE. -/

namespace Sys2Proof.Machine

/-- The catalog's payload size for a command code, `none` for the 240 unassigned codes (30_encoding.md R44, R45). -/
def catalogArity (code : Byte) : Option Nat :=
  match code.toNat with
  | 0x62 => some 1
  | 0x63 => some 0
  | 0x70 => some 0
  | 0x71 => some 1
  | 0x72 => some 0
  | 0x73 => some 1
  | 0x74 => some 1
  | 0x75 => some 0
  | 0x76 => some 1
  | 0x77 => some 0
  | 0x78 => some 3
  | 0x79 => some 0
  | 0x7C => some 1
  | 0x7D => some 0
  | 0x80 => some 1
  | 0x89 => some 1
  | _ => none

/-- A catalog request: a payload of another size than the command's is refused, then `ENCODE(code, payload, addr)`
(41_command_catalog.md R61). -/
def catalogPacket (code : Byte) (arity : Nat) (p : List Byte) (addr : Byte) : Except RefuseReason CommandPacket :=
  if p.length ≠ arity then .error .badOperandCount else encodePacket code p addr

/-- SET_READER_ADDRESS: the operand count is checked first (60_exceptions.md R105), then the new address, of which 0xFF is
refused (41_command_catalog.md R75). -/
def readerAddressPacket (p : List Byte) (addr : Byte) : Except RefuseReason CommandPacket :=
  if p.length ≠ 1 then .error .badOperandCount
  else if byteAt p 0 = Param.broadcastAddr then .error .addressOutOfRange
  else encodePacket 0x73 p addr

end Sys2Proof.Machine
end

