-- ==== Sys2Proof/Config.lean ====
section
/-! DEFINITION. What a build or the environment fixes and the spec leaves open: constants with no body, so that no
proof can rest on their value. -/

namespace Sys2Proof

/-- `ACT_RELEASED_LEVEL` of the build: the electrical level that releases the lock. OPEN in the spec (00_scope.md R6,
92_eei_decisions.md D7). `Machine.State.reset` puts it into the strap field `relLevel`. Log entry 5. -/
opaque Config.actReleasedLevel : Bool

/-- The override pin's level at reset: "a draw" of the environment (10_state.md section 4, 70_reset_and_hazards.md R116,
93_implementation_defined.md I8). Log entry 4. -/
opaque Config.ovrPinAtReset : Bool

end Sys2Proof
end

