-- ==== Sys2Proof/Syntax.lean ====
section
/-! DEFINITION. The instructions: one constructor per row of spec/opcode_table.json. An instruction is a REQUEST, in the
forms of 30_encoding.md R49: a catalog mnemonic with an address and payload operands, or the general ENCODE.

The payload of a catalog request is a list, because a request with the wrong number of operands is a request, which the
block refuses with `BadOperandCount` (41_command_catalog.md R61). -/

namespace Sys2Proof

/-- A request to the reader/decoder agent (30_encoding.md R44, R49; 41_command_catalog.md R62 to R77; 40_frame_codec.md R50). -/
inductive Instr where
  /-- `RESET addr`, code 0x70 (R62). -/
  | reset (addr : Byte) (payload : List Byte)
  /-- `GET_FIRMWARE_VERSION addr`, code 0x72 (R63). -/
  | getFirmwareVersion (addr : Byte) (payload : List Byte)
  /-- `SET_BAUD_RATE addr, rate`, code 0x71 (R64). -/
  | setBaudRate (addr : Byte) (payload : List Byte)
  /-- `SET_FREQUENCY_REGION addr, region, start, stop`, code 0x78 (R65). -/
  | setFrequencyRegion (addr : Byte) (payload : List Byte)
  /-- `GET_FREQUENCY_REGION addr`, code 0x79 (R66). -/
  | getFrequencyRegion (addr : Byte) (payload : List Byte)
  /-- `SET_WORKING_ANTENNA addr, ant`, code 0x74 (R67). -/
  | setWorkingAntenna (addr : Byte) (payload : List Byte)
  /-- `GET_WORKING_ANTENNA addr`, code 0x75 (R68). -/
  | getWorkingAntenna (addr : Byte) (payload : List Byte)
  /-- `SET_OUTPUT_POWER addr, pwr`, code 0x76 (R69). -/
  | setOutputPower (addr : Byte) (payload : List Byte)
  /-- `GET_OUTPUT_POWER addr`, code 0x77 (R70). -/
  | getOutputPower (addr : Byte) (payload : List Byte)
  /-- `SET_DRM_MODE addr, mode`, code 0x7C (R71). -/
  | setDrmMode (addr : Byte) (payload : List Byte)
  /-- `GET_DRM_MODE addr`, code 0x7D (R72). -/
  | getDrmMode (addr : Byte) (payload : List Byte)
  /-- `SET_ANT_DETECT_MODE addr, flag`, code 0x62 (R73). -/
  | setAntDetectMode (addr : Byte) (payload : List Byte)
  /-- `GET_ANT_DETECT_MODE addr`, code 0x63 (R74). -/
  | getAntDetectMode (addr : Byte) (payload : List Byte)
  /-- `SET_READER_ADDRESS addr, new`, code 0x73 (R75). -/
  | setReaderAddress (addr : Byte) (payload : List Byte)
  /-- `START_REALTIME_INVENTORY addr, hops`, code 0x89 (R76). -/
  | startRealtimeInventory (addr : Byte) (payload : List Byte)
  /-- `START_NAMED_INVENTORY addr, hops`, code 0x80 (R77). -/
  | startNamedInventory (addr : Byte) (payload : List Byte)
  /-- `ENCODE cmd, addr, [payload]`: any command code, the 240 unassigned ones among them (R50, 30_encoding.md R45). -/
  | encode (cmd addr : Byte) (payload : List Byte)
deriving DecidableEq, Repr

/-- The address operand of a request (30_encoding.md R43: any `u8`; 0xFF is broadcast). -/
def Instr.addr : Instr → Byte
  | .reset a _ => a
  | .getFirmwareVersion a _ => a
  | .setBaudRate a _ => a
  | .setFrequencyRegion a _ => a
  | .getFrequencyRegion a _ => a
  | .setWorkingAntenna a _ => a
  | .getWorkingAntenna a _ => a
  | .setOutputPower a _ => a
  | .getOutputPower a _ => a
  | .setDrmMode a _ => a
  | .getDrmMode a _ => a
  | .setAntDetectMode a _ => a
  | .getAntDetectMode a _ => a
  | .setReaderAddress a _ => a
  | .startRealtimeInventory a _ => a
  | .startNamedInventory a _ => a
  | .encode _ a _ => a

/-- The payload operands of a request, in wire order. -/
def Instr.payload : Instr → List Byte
  | .reset _ p => p
  | .getFirmwareVersion _ p => p
  | .setBaudRate _ p => p
  | .setFrequencyRegion _ p => p
  | .getFrequencyRegion _ p => p
  | .setWorkingAntenna _ p => p
  | .getWorkingAntenna _ p => p
  | .setOutputPower _ p => p
  | .getOutputPower _ p => p
  | .setDrmMode _ p => p
  | .getDrmMode _ p => p
  | .setAntDetectMode _ p => p
  | .getAntDetectMode _ p => p
  | .setReaderAddress _ p => p
  | .startRealtimeInventory _ p => p
  | .startNamedInventory _ p => p
  | .encode _ _ p => p

end Sys2Proof
end

