-- ==== Sys2Proof/Decode.lean ====
section
/-! DEFINITION. Requests as frame bytes: the decoder, and after it the encoder, of the rows of spec/opcode_table.json
(spec/30_encoding.md R38 to R44). The row's encoding is the whole frame, first byte on the wire first. -/

namespace Sys2Proof

open Machine

/-- Why bytes spell no request. -/
inductive DecodeError where
  /-- Fewer than 5 bytes (30_encoding.md R38: the smallest frame is 5 bytes). -/
  | tooShort
  /-- Byte 0 is not 0xA0. -/
  | badHead
  /-- The length byte is not 3 to 29, so it spells no command packet (30_encoding.md R40). -/
  | badLength
  /-- The bytes end before the frame does (30_encoding.md R47). -/
  | truncated
deriving DecidableEq, Repr

/-- The request a command code, an address and a payload spell: the catalog's mnemonic where the payload has that
command's size (30_encoding.md R44), the general ENCODE otherwise (R45). Log entry 8. -/
def classify (cmd addr : Byte) (p : List Byte) : Instr :=
  if catalogArity cmd = some p.length then
    match cmd.toNat with
    | 0x62 => .setAntDetectMode addr p
    | 0x63 => .getAntDetectMode addr p
    | 0x70 => .reset addr p
    | 0x71 => .setBaudRate addr p
    | 0x72 => .getFirmwareVersion addr p
    | 0x73 => .setReaderAddress addr p
    | 0x74 => .setWorkingAntenna addr p
    | 0x75 => .getWorkingAntenna addr p
    | 0x76 => .setOutputPower addr p
    | 0x77 => .getOutputPower addr p
    | 0x78 => .setFrequencyRegion addr p
    | 0x79 => .getFrequencyRegion addr p
    | 0x7C => .setDrmMode addr p
    | 0x7D => .getDrmMode addr p
    | 0x80 => .startNamedInventory addr p
    | 0x89 => .startRealtimeInventory addr p
    | _ => .encode cmd addr p
  else .encode cmd addr p

/-- The request that frame bytes spell. The size comes from byte 1 alone, bytes past the frame are not read
(30_encoding.md R47), and the checksum byte, which is no operand, is not judged (log entry 9). -/
def decode (bs : List Byte) : Except DecodeError Instr :=
  if bs.length < Param.minFrame then .error .tooShort
  else if byteAt bs 0 ≠ Param.head then .error .badHead
  else
    let L := (byteAt bs 1).toNat
    if L < Param.lenOverhead ∨ Param.maxCmdPayload + Param.lenOverhead < L then .error .badLength
    else if bs.length < L + 2 then .error .truncated
    else .ok (classify (byteAt bs 3) (byteAt bs 2) (slice bs 4 (L + 1)))

/-- The command code of a request (30_encoding.md R44). -/
def Instr.code : Instr → Byte
  | .reset _ _ => 0x70
  | .getFirmwareVersion _ _ => 0x72
  | .setBaudRate _ _ => 0x71
  | .setFrequencyRegion _ _ => 0x78
  | .getFrequencyRegion _ _ => 0x79
  | .setWorkingAntenna _ _ => 0x74
  | .getWorkingAntenna _ _ => 0x75
  | .setOutputPower _ _ => 0x76
  | .getOutputPower _ _ => 0x77
  | .setDrmMode _ _ => 0x7C
  | .getDrmMode _ _ => 0x7D
  | .setAntDetectMode _ _ => 0x62
  | .getAntDetectMode _ _ => 0x63
  | .setReaderAddress _ _ => 0x73
  | .startRealtimeInventory _ _ => 0x89
  | .startNamedInventory _ _ => 0x80
  | .encode cmd _ _ => cmd

/-- The frame of a well-formed request, from the encoding of its row: `10100000 llllllll aaaaaaaa kkkkkkkk pppppppp…
cccccccc`, with the length of 30_encoding.md R39 and the checksum of R41. -/
def encode (i : Instr) : List Byte := frameBytes i.code i.addr i.payload

/-- The longest command packet, in bytes (30_encoding.md R40). -/
def maxFrame : Nat := Param.maxCmdPayload + 5

/-- Byte `k` of a table word: bits `8k+7..8k`. -/
def wordByte (w k : Nat) : Byte := BitVec.ofNat 8 (w / 2 ^ (8 * k))

/-- The frame a table word stands for. A word whose first byte is the head byte is the frame itself, byte by byte, zeros
above `nbits`. The table's `match`, `mask` and `fixed` number the COMMAND byte as bits 7..0 ("match_on: command byte"; head
and length are fixed by the row), so a word with nothing above bit 7 names its row by the command byte, and the operands
it gives no bits are 0. Log entry 10. -/
def tableFrame (nbits w : Nat) : List Byte :=
  let v := w % 2 ^ nbits
  if v < 256 ∧ v ≠ Param.head.toNat then
    let cmd := BitVec.ofNat 8 v
    frameBytes cmd 0 (List.replicate ((catalogArity cmd).getD 0) 0)
  else (List.range maxFrame).map (wordByte v)

/-- The instruction the decoder reads from a word of spec/opcode_table.json, `none` where it refuses. -/
def decodeTableWord (nbits w : Nat) : Option Instr :=
  match decode (tableFrame nbits w) with
  | .ok i => some i
  | .error _ => none

end Sys2Proof
end

