-- ==== Sys2Proof/Machine/Flags.lean ====
section
/-! DEFINITION. The block has no flags or condition codes (spec/10_state.md R128). What stands here are the numeric codes
of its values (R14, R15, R16; 60_exceptions.md R101) and the actuator's electrical level (R16). -/

namespace Sys2Proof.Machine

/-- The 3-bit FrameError code; 0 means a frame decoded without error (10_state.md R14). -/
def errorCode : Option FrameError → BitVec 3
  | none => 0
  | some .tooShort => 1
  | some .badHeader => 2
  | some .lengthMismatch => 3
  | some .checksumMismatch => 4

/-- The 2-bit code of the lock state (10_state.md R15). -/
def LockState.code : LockState → BitVec 2
  | .idle => 0
  | .engaged => 1
  | .waitingForOverride => 2
  | .relocking => 3

/-- The 1-bit code of the actuator condition (10_state.md R16). -/
def ActCond.code : ActCond → BitVec 1
  | .secured => 0
  | .released => 1

/-- The code of a refusal (60_exceptions.md R101). -/
def RefuseReason.code : RefuseReason → Nat
  | .payloadTooLong => 1
  | .badOperandCount => 2
  | .addressOutOfRange => 3

/-- `level(c)`: the electrical level driven for a condition, given `ACT_RELEASED_LEVEL` (10_state.md R16). -/
def actLevel (relLevel : Bool) : ActCond → Bool
  | .released => relLevel
  | .secured => !relLevel

end Sys2Proof.Machine
end

