-- ==== Sys2Proof/Machine/State.lean ====
section
/-! DEFINITION. The state of the VM-5F core (spec/10_state.md sections 3 to 5), the steps its agents can take, and the
state after reset (spec/70_reset_and_hazards.md R116). -/

namespace Sys2Proof.Machine

/-- A request as the host policy hands it to the reader/decoder agent. -/
inductive Request where
  /-- By mnemonic, as 30_encoding.md R49 writes it; the operands may be ill-formed. -/
  | call (i : Instr)
  /-- By the frame bytes of its row of spec/opcode_table.json. -/
  | frame (bytes : List Byte)
deriving DecidableEq, Repr

/-- A step of one of the agents (60_exceptions.md R110). -/
inductive Action where
  /-- ENV: the boot configuration of transport and digital I/O (70_reset_and_hazards.md R118). -/
  | boot
  /-- RD: SEND(req) (40_frame_codec.md R60). -/
  | send (r : Request)
  /-- RD: RX_CHUNK(c) (42_inventory_decoder.md R82). -/
  | rxChunk (c : List Byte)
  /-- A transport `read` fails or times out: no step of the block (42_inventory_decoder.md R86). -/
  | readFails
  /-- RD: PUSH_RETRY (42_inventory_decoder.md R84). -/
  | pushRetry
  /-- LC: POP (43_lock_controller.md R88). -/
  | pop
  /-- LC: ENGAGE (R89). -/
  | engage
  /-- LC: SAMPLE (R90). -/
  | sample
  /-- LC: RELOCK_DONE (R92). -/
  | relockDone
  /-- ENV: TICK (R93). -/
  | tick
  /-- ENV: PIN(v) (60_exceptions.md R110). -/
  | pin (v : Bool)
deriving DecidableEq, Repr

/-- Everything the spec gives the machine, the edges it shares with its environment, and the schedule. -/
structure State where
  /-- The event FIFO, head first, at most 10 events (R18). -/
  fifo : List TagEvent
  /-- The lock state (R19). -/
  ls : LockState
  /-- The actuator condition last driven (R20). -/
  act : ActCond
  /-- Milliseconds to the next override sample (R21). -/
  pollCnt : Nat
  /-- Milliseconds left of the re-lock delay (R21). -/
  relockCnt : Nat
  /-- The event being processed (R22). -/
  cur : Option TagEvent
  /-- The event the suspended producer holds (R23). -/
  rxPending : Option TagEvent
  /-- What the status output of the last FrameError shows; `none` is code 0 (R129, R14; log entry 7). -/
  lastErr : Option FrameError
  /-- Bookkeeping: milliseconds since reset (R24). -/
  now : Nat
  /-- Bookkeeping: the append-only list of observable events (R24). -/
  hist : List Event
  /-- Bookkeeping: the sticky refusal mark (R24, 60_exceptions.md R104). -/
  refused : Bool
  /-- ENV: the override pin's level (10_state.md section 4). -/
  ovrPin : Bool
  /-- Output: the level driven on the actuator pin (R16, R20). -/
  actPin : Bool
  /-- Output: the transmit stream, one packet per `write` call (20_memory.md R25; log entry 15). -/
  tx : List (List Byte)
  /-- ENV: transport and digital I/O are configured (70_reset_and_hazards.md R118; log entry 2). -/
  booted : Bool
  /-- `STRICT_CHECKSUM`, which no step writes (00_scope.md R6, 10_state.md R129; log entry 6). -/
  strict : Bool
  /-- `ACT_RELEASED_LEVEL`, which no step writes (00_scope.md R6, 10_state.md R129; log entry 5). -/
  relLevel : Bool
  /-- The MODEL's own: the steps the agents will take, in order (60_exceptions.md R110, R111; log entry 1). -/
  sched : List Action
deriving DecidableEq, Repr

/-- What stops the machine. -/
inductive Fault where
  /-- A step other than the boot configuration was taken before it: "outside this spec, and a model gives it no meaning"
  (70_reset_and_hazards.md R118; 93_implementation_defined.md I17: `fault`). Raised by every step but `boot`. SAFE. -/
  | stepBeforeBoot
deriving DecidableEq, Repr

/-- What the model gives no meaning to. -/
inductive Refusal where
  /-- An instruction rejected by name in `exec`: no arm raises it now. SAFE. -/
  | notModelled (mnemonic : String)
  /-- A request carried as bytes that spell no request of the table (log entry 11). Raised by the fetch of a SEND. SAFE. -/
  | noRequest (e : DecodeError)
deriving DecidableEq, Repr

/-- The machine right after reset (70_reset_and_hazards.md R116; 10_state.md section 5). Reset drives `level(Secured)` onto
the actuator pin. The override pin and the released level are draws (`Config`). Log entries 1, 2, 4, 5, 6. -/
def State.reset : State :=
  { fifo := []
    ls := .idle
    act := .secured
    pollCnt := 0
    relockCnt := 0
    cur := none
    rxPending := none
    lastErr := none
    now := 0
    hist := []
    refused := false
    ovrPin := Config.ovrPinAtReset
    actPin := actLevel Config.actReleasedLevel .secured
    tx := []
    booted := false
    strict := false
    relLevel := Config.actReleasedLevel
    sched := [] }

end Sys2Proof.Machine
end

