-- ==== Sys2Proof/Machine/Ops.lean ====
section
/-! DEFINITION. The named operations over the state that the agents' steps share: the history, the three device calls
(spec/20_memory.md R32; 60_exceptions.md R109), the FIFO, and what an error or a refusal does.

The block has no traps (60_exceptions.md R100): `recordError` is "the whole of error entry and return" (R102), and
`refuseRequest` is a refusal (R104). -/

namespace Sys2Proof.Machine

open Host

/-- `hist <- hist ++ [e]` (00_scope.md R7; 10_state.md R24). -/
def record (e : Event) (s : State) : State := { s with hist := s.hist ++ [e] }

/-- `emit_tx(b); hist <- hist ++ [Tx(b)]`: hand a packet to the transport's `write` (40_frame_codec.md R60). A write that
fails changes nothing of the block (60_exceptions.md R103). -/
def emitTx (b : List Byte) (s : State) : State := record (.tx b) { s with tx := s.tx ++ [b] }

/-- `act <- c; set_output(level(c)); hist <- hist ++ [Drive(c)]`: every write of `act` drives the pin in the same step
(10_state.md R20). -/
def driveAct (c : ActCond) (s : State) : State :=
  record (.drive c) { s with act := c, actPin := actLevel s.relLevel c }

/-- `get_input()`: the override pin's level; reading it has no effect (20_memory.md R32). -/
def getInput (s : State) : Bool := s.ovrPin

/-- The FIFO holds fewer than `FIFO_DEPTH` events (10_state.md R18). -/
def fifoHasRoom (s : State) : Bool := decide (s.fifo.length < Param.fifoDepth)

/-- `fifo.push(e); hist <- hist ++ [Pushed(e)]`: one whole event to the tail (20_memory.md R31). -/
def pushEvent (e : TagEvent) (s : State) : State := record (.pushed e) { s with fifo := s.fifo ++ [e] }

/-- A FrameError: record it, show its code on the status output, drop the chunk, change nothing else
(60_exceptions.md R102; 10_state.md R129). -/
def recordError (k : FrameError) (s : State) : State := record (.rxError k) { s with lastErr := some k }

/-- A frame decoded: record it; the status output shows code 0 (10_state.md R14; log entry 7). -/
def recordFrame (f : ResponseFrame) (s : State) : State := record (.rxFrame f) { s with lastErr := none }

/-- A refused request: no bytes, `Refused(reason)`, and the sticky mark, which no step clears (60_exceptions.md R104). -/
def refuseRequest (r : RefuseReason) (s : State) : State := record (.refused r) { s with refused := true }

/-- RD is held: an event waits for FIFO space (42_inventory_decoder.md R85). -/
def held (s : State) : Bool := s.rxPending.isSome

/-- The body of SEND once the request is built, or refused while being built (40_frame_codec.md R60). -/
def sendBuilt (k : Except RefuseReason CommandPacket) (s : State) : State :=
  match k with
  | .error r => refuseRequest r s
  | .ok k => emitTx k.toBytes s

/-- `SEND(req)` (40_frame_codec.md R60). Before the boot configuration the step has no meaning (70_reset_and_hazards.md
R118). While RD is held it is not enabled: a hold, not an error, and nothing happens (42_inventory_decoder.md R85; log
entry 12). -/
def send (k : Except RefuseReason CommandPacket) (s : State) : Outcome State Fault Refusal :=
  if s.booted = false then .fault .stepBeforeBoot
  else if held s then .next s
  else .next (sendBuilt k s)

/-- The read-only status outputs a build may expose (10_state.md R129). -/
structure StatusOutputs where
  ls : BitVec 2
  act : BitVec 1
  fifoCount : BitVec 4
  held : Bool
  lastErr : BitVec 3
deriving DecidableEq, Repr

/-- What the status outputs show. -/
def State.status (s : State) : StatusOutputs :=
  { ls := s.ls.code
    act := s.act.code
    fifoCount := BitVec.ofNat 4 s.fifo.length
    held := Sys2Proof.Machine.held s
    lastErr := errorCode s.lastErr }

end Sys2Proof.Machine
end

