-- ==== Sys2Proof/Machine/Catalog.lean ====
section
/-! DEFINITION. The meanings of the instructions: the 16 commands of spec/41_command_catalog.md (R62 to R77) and the
general ENCODE (40_frame_codec.md R50). Each builds its packet and SENDs it (R61, R60); none is privileged
(60_exceptions.md R131) and none writes any other state. -/

namespace Sys2Proof.Machine

open Host

/-- `RESET addr` (R62). This resets the reader; the block's state is unchanged but for what SEND records (70_reset_and_hazards.md R119). -/
def execReset (addr : Byte) (payload : List Byte) (s : State) : Outcome State Fault Refusal :=
  send (catalogPacket 0x70 0 payload addr) s

/-- `GET_FIRMWARE_VERSION addr` (R63). -/
def execGetFirmwareVersion (addr : Byte) (payload : List Byte) (s : State) : Outcome State Fault Refusal :=
  send (catalogPacket 0x72 0 payload addr) s

/-- `SET_BAUD_RATE addr, rate` (R64). The block tracks no baud rate (70_reset_and_hazards.md R125). -/
def execSetBaudRate (addr : Byte) (payload : List Byte) (s : State) : Outcome State Fault Refusal :=
  send (catalogPacket 0x71 1 payload addr) s

/-- `SET_FREQUENCY_REGION addr, region, start, stop` (R65). `start <= stop` is not checked. -/
def execSetFrequencyRegion (addr : Byte) (payload : List Byte) (s : State) : Outcome State Fault Refusal :=
  send (catalogPacket 0x78 3 payload addr) s

/-- `GET_FREQUENCY_REGION addr` (R66). -/
def execGetFrequencyRegion (addr : Byte) (payload : List Byte) (s : State) : Outcome State Fault Refusal :=
  send (catalogPacket 0x79 0 payload addr) s

/-- `SET_WORKING_ANTENNA addr, ant` (R67). -/
def execSetWorkingAntenna (addr : Byte) (payload : List Byte) (s : State) : Outcome State Fault Refusal :=
  send (catalogPacket 0x74 1 payload addr) s

/-- `GET_WORKING_ANTENNA addr` (R68). -/
def execGetWorkingAntenna (addr : Byte) (payload : List Byte) (s : State) : Outcome State Fault Refusal :=
  send (catalogPacket 0x75 0 payload addr) s

/-- `SET_OUTPUT_POWER addr, pwr` (R69). -/
def execSetOutputPower (addr : Byte) (payload : List Byte) (s : State) : Outcome State Fault Refusal :=
  send (catalogPacket 0x76 1 payload addr) s

/-- `GET_OUTPUT_POWER addr` (R70). -/
def execGetOutputPower (addr : Byte) (payload : List Byte) (s : State) : Outcome State Fault Refusal :=
  send (catalogPacket 0x77 0 payload addr) s

/-- `SET_DRM_MODE addr, mode` (R71). -/
def execSetDrmMode (addr : Byte) (payload : List Byte) (s : State) : Outcome State Fault Refusal :=
  send (catalogPacket 0x7C 1 payload addr) s

/-- `GET_DRM_MODE addr` (R72). -/
def execGetDrmMode (addr : Byte) (payload : List Byte) (s : State) : Outcome State Fault Refusal :=
  send (catalogPacket 0x7D 0 payload addr) s

/-- `SET_ANT_DETECT_MODE addr, flag` (R73). -/
def execSetAntDetectMode (addr : Byte) (payload : List Byte) (s : State) : Outcome State Fault Refusal :=
  send (catalogPacket 0x62 1 payload addr) s

/-- `GET_ANT_DETECT_MODE addr` (R74). -/
def execGetAntDetectMode (addr : Byte) (payload : List Byte) (s : State) : Outcome State Fault Refusal :=
  send (catalogPacket 0x63 0 payload addr) s

/-- `SET_READER_ADDRESS addr, new` (R75). The block keeps no copy of the address. -/
def execSetReaderAddress (addr : Byte) (payload : List Byte) (s : State) : Outcome State Fault Refusal :=
  send (readerAddressPacket payload addr) s

/-- `START_REALTIME_INVENTORY addr, hops` (R76). -/
def execStartRealtimeInventory (addr : Byte) (payload : List Byte) (s : State) : Outcome State Fault Refusal :=
  send (catalogPacket 0x89 1 payload addr) s

/-- `START_NAMED_INVENTORY addr, hops` (R77). -/
def execStartNamedInventory (addr : Byte) (payload : List Byte) (s : State) : Outcome State Fault Refusal :=
  send (catalogPacket 0x80 1 payload addr) s

/-- `ENCODE cmd, addr, [payload]`: any command code (40_frame_codec.md R50; 30_encoding.md R45). -/
def execEncode (cmd addr : Byte) (payload : List Byte) (s : State) : Outcome State Fault Refusal :=
  send (encodePacket cmd payload addr) s

end Sys2Proof.Machine
end

