-- ==== Sys2Proof/Machine/Dispatch.lean ====
section
/-! DEFINITION. One arm per instruction. -/

namespace Sys2Proof.Machine

open Host

def exec (i : Instr) (s : State) : Host.Outcome State Fault Refusal :=
  match i with
  | .reset addr payload => Sys2Proof.Machine.execReset addr payload s
  | .getFirmwareVersion addr payload => Sys2Proof.Machine.execGetFirmwareVersion addr payload s
  | .setBaudRate addr payload => Sys2Proof.Machine.execSetBaudRate addr payload s
  | .setFrequencyRegion addr payload => Sys2Proof.Machine.execSetFrequencyRegion addr payload s
  | .getFrequencyRegion addr payload => Sys2Proof.Machine.execGetFrequencyRegion addr payload s
  | .setWorkingAntenna addr payload => Sys2Proof.Machine.execSetWorkingAntenna addr payload s
  | .getWorkingAntenna addr payload => Sys2Proof.Machine.execGetWorkingAntenna addr payload s
  | .setOutputPower addr payload => Sys2Proof.Machine.execSetOutputPower addr payload s
  | .getOutputPower addr payload => Sys2Proof.Machine.execGetOutputPower addr payload s
  | .setDrmMode addr payload => Sys2Proof.Machine.execSetDrmMode addr payload s
  | .getDrmMode addr payload => Sys2Proof.Machine.execGetDrmMode addr payload s
  | .setAntDetectMode addr payload => Sys2Proof.Machine.execSetAntDetectMode addr payload s
  | .getAntDetectMode addr payload => Sys2Proof.Machine.execGetAntDetectMode addr payload s
  | .setReaderAddress addr payload => Sys2Proof.Machine.execSetReaderAddress addr payload s
  | .startRealtimeInventory addr payload => Sys2Proof.Machine.execStartRealtimeInventory addr payload s
  | .startNamedInventory addr payload => Sys2Proof.Machine.execStartNamedInventory addr payload s
  | .encode cmd addr payload => Sys2Proof.Machine.execEncode cmd addr payload s

end Sys2Proof.Machine
end

