-- ==== Sys2Proof/Machine/Inventory.lean ====
section
/-! DEFINITION. The inventory decoder and the producer's steps (spec/42_inventory_decoder.md). -/

namespace Sys2Proof.Machine

/-- `EXTRACT_TAG(f)` (R78 to R81): the data length alone decides; the command, the address and the checksum are not looked
at. The layout is R79's: `trailing` is every byte from 15 on (90_conflicts.md C7). -/
def extractTag (f : ResponseFrame) : Option TagEvent :=
  if f.data.length ≤ Param.tagThreshold then none
  else if f.data.length < Param.tagMinData then none
  else some
    { ant := byteAt f.data 0
      pc := slice f.data 1 3
      epc := slice f.data 3 15
      trailing := slice f.data 15 f.data.length }

/-- The widths of a tag event's fields (10_state.md R17). -/
def TagEvent.wf (e : TagEvent) : Bool :=
  decide (e.pc.length = 2) && decide (e.epc.length = Param.epcLen) && decide (e.trailing.length ≤ 12)

/-- What RX_CHUNK does with an extracted event: push it, or hold it while the FIFO is full (R82). -/
def offerEvent (e : TagEvent) (s : State) : State :=
  if fifoHasRoom s then pushEvent e s else { s with rxPending := some e }

/-- What RX_CHUNK does with a decoded frame: record it, extract, offer (R82, R83). -/
def acceptFrame (f : ResponseFrame) (s : State) : State :=
  match extractTag f with
  | none => recordFrame f s
  | some e => offerEvent e (recordFrame f s)

/-- `RX_CHUNK(c)` (R82): a zero-length read is "no frame available"; an error is recorded and the chunk dropped (60 R102). -/
def rxChunk (c : List Byte) (s : State) : State :=
  if c.length = 0 then record .rxEmpty s
  else
    match decodeFrame s.strict c with
    | .error k => recordError k s
    | .ok f => acceptFrame f s

/-- `PUSH_RETRY` is enabled: an event is pending and the FIFO has room (R84). -/
def pushRetryEnabled (s : State) : Bool := s.rxPending.isSome && fifoHasRoom s

/-- `PUSH_RETRY` (R84). Where it is not enabled nothing happens (log entry 13). -/
def pushRetry (s : State) : State :=
  match s.rxPending with
  | some e => if fifoHasRoom s then { pushEvent e s with rxPending := none } else s
  | none => s

end Sys2Proof.Machine
end

