-- ==== Sys2Proof/Machine/Lock.lean ====
section
/-! DEFINITION. The lock-state machine (spec/43_lock_controller.md): when each step of LC is enabled, what it does, and the
environment's TICK. Where a step is not enabled its function leaves the state as it is (log entry 13). -/

namespace Sys2Proof.Machine

/-- POP is enabled (R88); with an empty FIFO, LC is held in `Idle` (R87). -/
def popEnabled (s : State) : Bool := s.ls == .idle && !s.fifo.isEmpty

/-- ENGAGE is enabled (R89). -/
def engageEnabled (s : State) : Bool := s.ls == .engaged

/-- SAMPLE is enabled (R90). -/
def sampleEnabled (s : State) : Bool := s.ls == .waitingForOverride && s.pollCnt == 0

/-- RELOCK_DONE is enabled (R92). -/
def relockDoneEnabled (s : State) : Bool := s.ls == .relocking && s.relockCnt == 0

/-- Some step of LC is enabled (R94). -/
def lcEnabled (s : State) : Bool := popEnabled s || engageEnabled s || sampleEnabled s || relockDoneEnabled s

/-- `POP` (R88): take the head event and release the lock. The event's contents are not checked. -/
def pop (s : State) : State :=
  match s.ls, s.fifo with
  | .idle, e :: rest =>
    { driveAct .released (record (.popped e) { s with fifo := rest, cur := some e }) with ls := .engaged }
  | _, _ => s

/-- `ENGAGE` (R89): the first sample is due at once (92_eei_decisions.md D29). -/
def engage (s : State) : State :=
  match s.ls with
  | .engaged => { s with ls := .waitingForOverride, pollCnt := 0 }
  | _ => s

/-- The decision of SAMPLE on the level it read (R90): a pressed level starts the re-lock delay, another the next poll
period. `act` is not written. -/
def afterSample (v : Bool) (s : State) : State :=
  if v = Param.ovrPressedLevel then { s with ls := .relocking, relockCnt := Param.relockDelayMs }
  else { s with pollCnt := Param.pollPeriodMs }

/-- `SAMPLE` (R90): read the override pin once; one pressed sample is accepted (R91). -/
def sample (s : State) : State :=
  if sampleEnabled s then afterSample (getInput s) (record (.sample (getInput s)) s) else s

/-- `RELOCK_DONE` (R92): restore the secured level and return to `Idle`. -/
def relockDone (s : State) : State :=
  if relockDoneEnabled s then { driveAct .secured s with cur := none, ls := .idle } else s

/-- `TICK` (R93): one millisecond; the counter of the present state goes down and stops at 0. TICK is not enabled while a
step of LC is (R94). -/
def tick (s : State) : State :=
  if lcEnabled s then s
  else
    { s with
      now := s.now + Param.tickMs
      pollCnt := if s.ls = .waitingForOverride ∧ 0 < s.pollCnt then s.pollCnt - 1 else s.pollCnt
      relockCnt := if s.ls = .relocking ∧ 0 < s.relockCnt then s.relockCnt - 1 else s.relockCnt }

end Sys2Proof.Machine
end

