-- ==== Sys2Proof/Machine/Agents.lean ====
section
/-! DEFINITION. The agents (spec/60_exceptions.md R110): which steps are enabled, what a step does, and which step comes
next. "Any enabled step of any agent may be taken next, subject only to rule R94": the choice is the schedule's. -/

namespace Sys2Proof.Machine

open Host

/-- A step is enabled. Every step but the boot configuration needs it done (70_reset_and_hazards.md R118); boot happens once.
SEND, RX_CHUNK and the reads behind it need RD not held (42_inventory_decoder.md R85); TICK needs no step of LC enabled
(43_lock_controller.md R94); PIN may come at any step (60_exceptions.md R111). -/
def enabled (a : Action) (s : State) : Bool :=
  match a with
  | .boot => !s.booted
  | .send _ => s.booted && !held s
  | .rxChunk _ => s.booted && !held s
  | .readFails => s.booted && !held s
  | .pushRetry => s.booted && pushRetryEnabled s
  | .pop => s.booted && popEnabled s
  | .engage => s.booted && engageEnabled s
  | .sample => s.booted && sampleEnabled s
  | .relockDone => s.booted && relockDoneEnabled s
  | .tick => s.booted && !lcEnabled s
  | .pin _ => s.booted

/-- The request a SEND carries; frame bytes are fetched through the decoder. -/
def fetch : Request → Except DecodeError Instr
  | .call i => .ok i
  | .frame bytes => decode bytes

/-- SEND of a request: run the instruction it spells (40_frame_codec.md R60). -/
def sendRequest (r : Request) (s : State) : Outcome State Fault Refusal :=
  match fetch r with
  | .ok i => exec i s
  | .error e => .refused (.noRequest e)

/-- What a step does once the boot configuration is made. `readFails` is no step of the block: its state is unchanged
(42_inventory_decoder.md R86). -/
def perform (a : Action) (s : State) : Outcome State Fault Refusal :=
  match a with
  | .boot => .next { s with booted := true }
  | .send r => sendRequest r s
  | .rxChunk c => .next (if held s then s else rxChunk c s)
  | .readFails => .next s
  | .pushRetry => .next (pushRetry s)
  | .pop => .next (pop s)
  | .engage => .next (engage s)
  | .sample => .next (sample s)
  | .relockDone => .next (relockDone s)
  | .tick => .next (tick s)
  | .pin v => .next { s with ovrPin := v }

/-- Take a step: before the boot configuration every other step is without meaning (70_reset_and_hazards.md R118;
93_implementation_defined.md I17). -/
def take (a : Action) (s : State) : Outcome State Fault Refusal :=
  if s.booted = false ∧ a ≠ .boot then .fault .stepBeforeBoot else perform a s

/-- The step taken when the schedule names no enabled one: boot first; then LC's enabled step, then PUSH_RETRY if it is
enabled, then time (the order of 95_test_vectors.md L3; log entry 1). -/
def defaultAction (s : State) : Action :=
  if s.booted = false then .boot
  else if popEnabled s then .pop
  else if engageEnabled s then .engage
  else if sampleEnabled s then .sample
  else if relockDoneEnabled s then .relockDone
  else if pushRetryEnabled s then .pushRetry
  else .tick

/-- The next step, and the state with the schedule moved on. The head of the schedule goes next if it is enabled; a head
that is not enabled waits (a hold, 42_inventory_decoder.md R85), and the default step goes first. Before boot the head is
taken as it stands. Log entry 1. -/
def selectAction (s : State) : Action × State :=
  match s.sched with
  | [] => (defaultAction s, s)
  | a :: rest =>
    if enabled a s || !s.booted then (a, { s with sched := rest }) else (defaultAction s, s)

/-- Put a request given as frame bytes where the next step fetches it, and make the SEND enabled: boot done, RD not held
(log entry 3). -/
def placeFrame (bytes : List Byte) (s : State) : State :=
  { s with booted := true, rxPending := none, sched := .send (.frame bytes) :: s.sched }

end Sys2Proof.Machine
end

