-- ==== Sys2Proof/Machine/Step.lean ====
section
/-! DEFINITION. One step of the machine. -/

namespace Sys2Proof.Machine

/-- Take the step that comes next (spec/60_exceptions.md R110). -/
def step (s : State) : Host.Outcome State Fault Refusal :=
  take (selectAction s).1 (selectAction s).2

/-- The state whose next step fetches and runs the instruction of a table word. Log entries 3 and 10. -/
def State.withFetchWord (s : State) (nbits w : Nat) : State := placeFrame (tableFrame nbits w) s

end Sys2Proof.Machine
end

