-- ==== Sys2Proof/Machine/Assembler.lean ====
section
/-! DEFINITION. The request syntax of spec/30_encoding.md R49: one line of text, read as steps of the agents, and a request
written as text. Numbers are hexadecimal with a 0x prefix; in payload and chunk lists a byte is two hex digits. Spaces
separate words, and both cases of a hex digit are read (log entry 18). -/

namespace Sys2Proof.Machine

/-- The words and marks of a line. -/
inductive Token where
  | word (cs : List Char)
  | comma
  | openList
  | closeList
deriving DecidableEq, Repr

/-- End the word being read, if there is one. -/
def flushWord (acc : List Char) (ts : List Token) : List Token :=
  if acc = [] then ts else .word acc :: ts

/-- Split a line into tokens; `acc` is the word being read. -/
def tokenize (acc : List Char) : List Char → List Token
  | [] => flushWord acc []
  | c :: cs =>
    if c = ' ' then flushWord acc (tokenize [] cs)
    else if c = ',' then flushWord acc (.comma :: tokenize [] cs)
    else if c = '[' then flushWord acc (.openList :: tokenize [] cs)
    else if c = ']' then flushWord acc (.closeList :: tokenize [] cs)
    else tokenize (acc ++ [c]) cs

/-- The value of a hex digit. -/
def hexVal (c : Char) : Option Nat :=
  let n := c.toNat
  if 48 ≤ n ∧ n ≤ 57 then some (n - 48)
  else if 65 ≤ n ∧ n ≤ 70 then some (n - 55)
  else if 97 ≤ n ∧ n ≤ 102 then some (n - 87)
  else none

/-- The value of a run of hex digits after a value already read. -/
def hexRun (v : Nat) : List Char → Option Nat
  | [] => some v
  | c :: cs =>
    match hexVal c with
    | some d => hexRun (16 * v + d) cs
    | none => none

/-- A number: `0x` and at least one hex digit. -/
def parseNumber : List Char → Option Nat
  | '0' :: 'x' :: c :: cs => hexRun 0 (c :: cs)
  | _ => none

/-- A number that is a byte. -/
def parseByte (cs : List Char) : Option Byte :=
  match parseNumber cs with
  | some v => if v < 256 then some (BitVec.ofNat 8 v) else none
  | none => none

/-- Two hex digits, as payload and chunk lists write a byte. -/
def parsePair : List Char → Option Byte
  | [a, b] =>
    match hexVal a, hexVal b with
    | some x, some y => some (BitVec.ofNat 8 (16 * x + y))
    | _, _ => none
  | _ => none

/-- The rest of a list of bytes, up to its closing bracket, which ends the line. -/
def parseList : List Token → Option (List Byte)
  | [.closeList] => some []
  | .word w :: ts =>
    match parsePair w, parseList ts with
    | some b, some bs => some (b :: bs)
    | _, _ => none
  | _ => none

/-- Operands after the first: each a comma and a byte. -/
def parseOperands : List Token → Option (List Byte)
  | [] => some []
  | .comma :: .word w :: ts =>
    match parseByte w, parseOperands ts with
    | some b, some bs => some (b :: bs)
    | _, _ => none
  | _ => none

/-- The catalog's mnemonics (30_encoding.md R44). -/
def catalogNames : List (List Char × (Byte → List Byte → Instr)) :=
  [("RESET".toList, .reset),
   ("GET_FIRMWARE_VERSION".toList, .getFirmwareVersion),
   ("SET_BAUD_RATE".toList, .setBaudRate),
   ("SET_FREQUENCY_REGION".toList, .setFrequencyRegion),
   ("GET_FREQUENCY_REGION".toList, .getFrequencyRegion),
   ("SET_WORKING_ANTENNA".toList, .setWorkingAntenna),
   ("GET_WORKING_ANTENNA".toList, .getWorkingAntenna),
   ("SET_OUTPUT_POWER".toList, .setOutputPower),
   ("GET_OUTPUT_POWER".toList, .getOutputPower),
   ("SET_DRM_MODE".toList, .setDrmMode),
   ("GET_DRM_MODE".toList, .getDrmMode),
   ("SET_ANT_DETECT_MODE".toList, .setAntDetectMode),
   ("GET_ANT_DETECT_MODE".toList, .getAntDetectMode),
   ("SET_READER_ADDRESS".toList, .setReaderAddress),
   ("START_REALTIME_INVENTORY".toList, .startRealtimeInventory),
   ("START_NAMED_INVENTORY".toList, .startNamedInventory)]

/-- The constructor of a mnemonic. -/
def findName (w : List Char) : List (List Char × (Byte → List Byte → Instr)) → Option (Byte → List Byte → Instr)
  | [] => none
  | (n, k) :: rest => if w = n then some k else findName w rest

/-- `<MNEMONIC> <addr>[, <p0> ...]`. The operand count is not judged here: a wrong one is refused by SEND. -/
def parseCatalog (w : List Char) (ts : List Token) : Option Instr :=
  match findName w catalogNames, ts with
  | some k, .word a :: rest =>
    match parseByte a, parseOperands rest with
    | some addr, some p => some (k addr p)
    | _, _ => none
  | _, _ => none

/-- `ENCODE <cmd>, <addr>, [<b0> <b1> ...]`. -/
def parseEncode : List Token → Option Instr
  | .word c :: .comma :: .word a :: .comma :: .openList :: rest =>
    match parseByte c, parseByte a, parseList rest with
    | some cmd, some addr, some p => some (.encode cmd addr p)
    | _, _, _ => none
  | _ => none

/-- `RX [<b0> <b1> ...]`. -/
def parseRx : List Token → Option (List Action)
  | .openList :: rest => (parseList rest).map fun c => [.rxChunk c]
  | _ => none

/-- `PIN <0|1>`. -/
def parsePin : List Token → Option (List Action)
  | [.word ['0']] => some [.pin false]
  | [.word ['1']] => some [.pin true]
  | _ => none

/-- `TICK <k>`: `k` ticks. -/
def parseTick : List Token → Option (List Action)
  | [.word k] => (parseNumber k).map fun n => List.replicate n .tick
  | _ => none

/-- The steps a line of tokens spells. -/
def parseTokens : List Token → Option (List Action)
  | .word w :: ts =>
    if w = "ENCODE".toList then (parseEncode ts).map fun i => [.send (.call i)]
    else if w = "RX".toList then parseRx ts
    else if w = "PIN".toList then parsePin ts
    else if w = "TICK".toList then parseTick ts
    else (parseCatalog w ts).map fun i => [.send (.call i)]
  | _ => none

/-- The steps a line of text spells, `none` where it spells none (30_encoding.md R49). -/
def assemble (line : String) : Option (List Action) := parseTokens (tokenize [] line.toList)

/-- A hex digit. -/
def hexDigit (n : Nat) : Char := "0123456789ABCDEF".toList.getD n '0'

/-- A byte as two hex digits. -/
def pairText (b : Byte) : List Char := [hexDigit (b.toNat / 16), hexDigit (b.toNat % 16)]

/-- A byte as a number. -/
def byteText (b : Byte) : List Char := '0' :: 'x' :: pairText b

/-- Operands after the first. -/
def operandsText : List Byte → List Char
  | [] => []
  | b :: bs => ',' :: ' ' :: (byteText b ++ operandsText bs)

/-- The bytes of a list, each followed by a space, and the closing bracket. -/
def listText : List Byte → List Char
  | [] => [']']
  | b :: bs => pairText b ++ ' ' :: listText bs

/-- The mnemonic of an instruction, as spec/opcode_table.json spells it. -/
def mnemonicText : Instr → List Char
  | .reset _ _ => "RESET".toList
  | .getFirmwareVersion _ _ => "GET_FIRMWARE_VERSION".toList
  | .setBaudRate _ _ => "SET_BAUD_RATE".toList
  | .setFrequencyRegion _ _ => "SET_FREQUENCY_REGION".toList
  | .getFrequencyRegion _ _ => "GET_FREQUENCY_REGION".toList
  | .setWorkingAntenna _ _ => "SET_WORKING_ANTENNA".toList
  | .getWorkingAntenna _ _ => "GET_WORKING_ANTENNA".toList
  | .setOutputPower _ _ => "SET_OUTPUT_POWER".toList
  | .getOutputPower _ _ => "GET_OUTPUT_POWER".toList
  | .setDrmMode _ _ => "SET_DRM_MODE".toList
  | .getDrmMode _ _ => "GET_DRM_MODE".toList
  | .setAntDetectMode _ _ => "SET_ANT_DETECT_MODE".toList
  | .getAntDetectMode _ _ => "GET_ANT_DETECT_MODE".toList
  | .setReaderAddress _ _ => "SET_READER_ADDRESS".toList
  | .startRealtimeInventory _ _ => "START_REALTIME_INVENTORY".toList
  | .startNamedInventory _ _ => "START_NAMED_INVENTORY".toList
  | .encode _ _ _ => "ENCODE".toList

/-- A request as text (30_encoding.md R49). -/
def requestText (i : Instr) : List Char :=
  match i with
  | .encode cmd addr p =>
    mnemonicText i ++ ' ' :: (byteText cmd ++ ',' :: ' ' :: (byteText addr ++ ',' :: ' ' :: '[' :: listText p))
  | _ => mnemonicText i ++ ' ' :: (byteText i.addr ++ operandsText i.payload)

end Sys2Proof.Machine
end

