-- ==== Sys2Proof/WellFormed.lean ====
section
/-! DEFINITION. Which requests the block admits, and which of them are the canonical name of their frame. -/

namespace Sys2Proof

open Machine (byteAt catalogArity)

/-- A well-formed request is one the block does not refuse: a catalog request has its command's payload size
(41_command_catalog.md R61), SET_READER_ADDRESS does not give the broadcast address (R75), and ENCODE has at most 26
payload bytes (40_frame_codec.md R50). -/
def Instr.wellFormed : Instr → Bool
  | .reset _ p => p.length == 0
  | .getFirmwareVersion _ p => p.length == 0
  | .setBaudRate _ p => p.length == 1
  | .setFrequencyRegion _ p => p.length == 3
  | .getFrequencyRegion _ p => p.length == 0
  | .setWorkingAntenna _ p => p.length == 1
  | .getWorkingAntenna _ p => p.length == 0
  | .setOutputPower _ p => p.length == 1
  | .getOutputPower _ p => p.length == 0
  | .setDrmMode _ p => p.length == 1
  | .getDrmMode _ p => p.length == 0
  | .setAntDetectMode _ p => p.length == 1
  | .getAntDetectMode _ p => p.length == 0
  | .setReaderAddress _ p => p.length == 1 && byteAt p 0 != Machine.Param.broadcastAddr
  | .startRealtimeInventory _ p => p.length == 1
  | .startNamedInventory _ p => p.length == 1
  | .encode _ _ p => decide (p.length ≤ Machine.Param.maxCmdPayload)

/-- A request is the canonical name of its frame: every mnemonic is, and ENCODE is unless a catalog mnemonic spells the
same frame ("each catalog mnemonic is exactly `ENCODE <code>, <addr>, [payload]`", 30_encoding.md R49). Log entry 8. -/
def Instr.canonical : Instr → Bool
  | .reset _ _ => true
  | .getFirmwareVersion _ _ => true
  | .setBaudRate _ _ => true
  | .setFrequencyRegion _ _ => true
  | .getFrequencyRegion _ _ => true
  | .setWorkingAntenna _ _ => true
  | .getWorkingAntenna _ _ => true
  | .setOutputPower _ _ => true
  | .getOutputPower _ _ => true
  | .setDrmMode _ _ => true
  | .getDrmMode _ _ => true
  | .setAntDetectMode _ _ => true
  | .getAntDetectMode _ _ => true
  | .setReaderAddress _ _ => true
  | .startRealtimeInventory _ _ => true
  | .startNamedInventory _ _ => true
  | .encode cmd _ p => catalogArity cmd != some p.length

end Sys2Proof
end

