-- ==== Sys2Proof/Safety.lean ====
section
/-! DEFINITION. The terms in which statements about the machine are made: its runs, its settled states, what stands in its
history, its invariants, and the effect of SEND written out. -/

namespace Sys2Proof.Machine

open Host

/-- The state after SEND handed out `bytes`: the transmit stream and the history gain the packet, and nothing else changes
(40_frame_codec.md R60; 41_command_catalog.md R61). -/
def sentState (bytes : List Byte) (s : State) : State :=
  { s with tx := s.tx ++ [bytes], hist := s.hist ++ [.tx bytes] }

/-- The state after a refused request: the history and the sticky mark, and nothing else (60_exceptions.md R104). -/
def refusedState (r : RefuseReason) (s : State) : State :=
  { s with hist := s.hist ++ [.refused r], refused := true }

/-- RD may SEND: boot is done and no event is pending (40_frame_codec.md R60; 70_reset_and_hazards.md R118). -/
def sendReady (s : State) : Prop := s.booted = true ∧ s.rxPending = none

/-- A request by a catalog mnemonic (41_command_catalog.md R61). -/
def isCatalog : Instr → Bool
  | .encode _ _ _ => false
  | _ => true

/-- `a` is an enabled step from `s`, and it leads to `t` (60_exceptions.md R110). -/
def Moves (a : Action) (s t : State) : Prop := enabled a s = true ∧ take a s = .next t

/-- Take the steps of a list in order, each of which must be enabled: one interleaving of the agents. -/
def takeAll : List Action → State → Option State
  | [], s => some s
  | a :: as, s =>
    if enabled a s then
      match take a s with
      | .next t => takeAll as t
      | _ => none
    else none

/-- `n` steps of the machine, stopping at a fault or a refusal. -/
def runFor : Nat → State → Outcome State Fault Refusal
  | 0, s => .next s
  | n + 1, s =>
    match step s with
    | .next t => runFor n t
    | .fault r => .fault r
    | .refused r => .refused r

/-- A step of the lock controller (60_exceptions.md R110). -/
def isLockStep : Action → Bool
  | .pop => true
  | .engage => true
  | .sample => true
  | .relockDone => true
  | _ => false

/-- A settled state: neither PUSH_RETRY nor a step of LC is enabled (60_exceptions.md R115). -/
def settled (s : State) : Bool := !pushRetryEnabled s && !lcEnabled s

/-- An infinite run: at every point an enabled step is taken. -/
def IsRun (path : Nat → State) (steps : Nat → Action) : Prop := ∀ n, Moves (steps n) (path n) (path (n + 1))

/-- A step that stays enabled is taken (60_exceptions.md R114). -/
def FairFor (a : Action) (path : Nat → State) (steps : Nat → Action) : Prop :=
  ∀ n, (∀ m, n ≤ m → enabled a (path m) = true) → ∃ m, n ≤ m ∧ steps m = a

/-- A weakly fair run (60_exceptions.md R114): each LC step and PUSH_RETRY is taken if it stays enabled, and TICK infinitely
often. -/
def WeaklyFair (path : Nat → State) (steps : Nat → Action) : Prop :=
  FairFor .pop path steps ∧ FairFor .engage path steps ∧ FairFor .sample path steps ∧ FairFor .relockDone path steps
    ∧ FairFor .pushRetry path steps ∧ ∀ n, ∃ m, n ≤ m ∧ steps m = .tick

/-- The events pushed, oldest first. -/
def pushedOf : List Event → List TagEvent
  | [] => []
  | .pushed e :: h => e :: pushedOf h
  | _ :: h => pushedOf h

/-- The events popped, oldest first. -/
def poppedOf : List Event → List TagEvent
  | [] => []
  | .popped e :: h => e :: poppedOf h
  | _ :: h => poppedOf h

/-- The packets handed to the transport, oldest first. -/
def packetsOf : List Event → List (List Byte)
  | [] => []
  | .tx b :: h => b :: packetsOf h
  | _ :: h => packetsOf h

/-- The frames decoded, oldest first. -/
def framesOf : List Event → List ResponseFrame
  | [] => []
  | .rxFrame f :: h => f :: framesOf h
  | _ :: h => framesOf h

/-- The levels the override pin was read at, oldest first. -/
def samplesOf : List Event → List Bool
  | [] => []
  | .sample v :: h => v :: samplesOf h
  | _ :: h => samplesOf h

/-- A refusal stands in the history. -/
def hasRefusal : List Event → Bool
  | [] => false
  | .refused _ :: _ => true
  | _ :: h => hasRefusal h

/-- The last condition driven, given the one before the history began. -/
def lastDrive (c : ActCond) : List Event → ActCond
  | [] => c
  | .drive d :: h => lastDrive d h
  | _ :: h => lastDrive c h

/-- Where a history stands within a lock cycle (43_lock_controller.md R95, R99). -/
inductive CyclePhase where
  /-- Between two cycles. -/
  | resting
  /-- An event is popped, and the actuator not yet released. -/
  | accepted
  /-- The actuator is released, and no sample read pressed yet. -/
  | released
  /-- A sample read pressed, and the actuator is not yet secured. -/
  | closing
deriving DecidableEq, Repr

/-- One event of a history that follows the cycle: popped, released, samples up to the first that reads pressed, secured.
The events of RD may stand anywhere. -/
def cycleNext (p : CyclePhase) (e : Event) : Option CyclePhase :=
  match e, p with
  | .popped _, .resting => some .accepted
  | .popped _, _ => none
  | .drive .released, .accepted => some .released
  | .drive .secured, .closing => some .resting
  | .drive _, _ => none
  | .sample v, .released => if v = Param.ovrPressedLevel then some .closing else some .released
  | .sample _, _ => none
  | _, _ => some p

/-- The phase a history ends in, `none` where it does not follow the cycle. -/
def cycleRun (p : CyclePhase) : List Event → Option CyclePhase
  | [] => some p
  | e :: h =>
    match cycleNext p e with
    | some q => cycleRun q h
    | none => none

/-- The phase of a lock state. ENGAGE leaves no mark in the history. -/
def phaseOf : LockState → CyclePhase
  | .idle => .resting
  | .engaged => .released
  | .waitingForOverride => .released
  | .relocking => .closing

/-- The lock controller's fields agree (10_state.md R19 to R22): `cur` and the released actuator go with a cycle, and each
counter counts in its own state only, within its range. -/
structure ControllerInv (s : State) : Prop where
  cur_idle : s.ls = .idle ↔ s.cur = none
  secured_idle : s.ls = .idle ↔ s.act = .secured
  poll_le : s.pollCnt ≤ Param.pollPeriodMs
  relock_le : s.relockCnt ≤ Param.relockDelayMs
  poll_elsewhere : s.ls ≠ .waitingForOverride → s.pollCnt = 0
  relock_elsewhere : s.ls ≠ .relocking → s.relockCnt = 0

/-- The FIFO is within its depth and every event the block holds has the widths of 10_state.md R17, R18. -/
structure EventsInv (s : State) : Prop where
  depth : s.fifo.length ≤ Param.fifoDepth
  fifo_wf : ∀ e ∈ s.fifo, e.wf = true
  cur_wf : ∀ e, s.cur = some e → e.wf = true
  pending_wf : ∀ e, s.rxPending = some e → e.wf = true

/-- What left the FIFO, followed by what is in it, is what entered it (20_memory.md R34). -/
def OrderInv (s : State) : Prop := pushedOf s.hist = poppedOf s.hist ++ s.fifo

/-- The history follows the cycle and stands where the lock state does (43_lock_controller.md R95, R99). -/
def CycleInv (s : State) : Prop := cycleRun .resting s.hist = some (phaseOf s.ls)

/-- The outputs agree with the history and the state: the pin with `act`, `act` with the last Drive (10_state.md R20), the
transmit stream with the Tx events, and the sticky mark with the refusals (60_exceptions.md R104). -/
structure OutputsInv (s : State) : Prop where
  pin_level : s.actPin = actLevel s.relLevel s.act
  last_drive : s.act = lastDrive .secured s.hist
  packets : s.tx = packetsOf s.hist
  refusals : s.refused = hasRefusal s.hist

/-- Every frame decoded has the shape of 10_state.md R13, and in strict mode its checksum matched (40_frame_codec.md R56). -/
structure FramesInv (s : State) : Prop where
  shape : ∀ f ∈ framesOf s.hist, f.wf = true
  checked : s.strict = true → ∀ f ∈ framesOf s.hist, f.chkOk = true

/-- All of them. -/
structure MachineInv (s : State) : Prop where
  controller : ControllerInv s
  events : EventsInv s
  order : OrderInv s
  cycle : CycleInv s
  outputs : OutputsInv s
  frames : FramesInv s

/-- The state without its bookkeeping (10_state.md R24). -/
def hardware (s : State) : State := { s with now := 0, hist := [], refused := false }

/-- The state with the override pin at another level. -/
def withPin (v : Bool) (s : State) : State := { s with ovrPin := v }

/-- An outcome with its next state mapped. -/
def mapNext (f : State → State) : Outcome State Fault Refusal → Outcome State Fault Refusal
  | .next t => .next (f t)
  | .fault r => .fault r
  | .refused r => .refused r

end Sys2Proof.Machine
end

