-- ==== Sys2Proof/Certificates/Slice0/Obligations.lean ====
section
/-! DEFINITION. The statements for the provers, from the numbered rules of spec/. -/

open Sys2Proof Sys2Proof.Machine Host

/-! ## The frame format and the codec -/

/-- 30_encoding.md R41: the two forms of the checksum; that only the sum modulo 256 counts; and that a frame's last byte is
the checksum of every byte before it. -/
def Obligations.ChecksumIsNegatedSum : Prop :=
  (∀ s : List Byte, (checksumOf s).toNat = (byteSum s * 0xFF) % 256
      ∧ (checksumOf s).toNat = (256 - byteSum s % 256) % 256)
    ∧ (∀ s t : List Byte, byteSum s % 256 = byteSum t % 256 → checksumOf s = checksumOf t)
    ∧ ∀ (cmd addr : Byte) (p : List Byte),
      frameBytes cmd addr p = (frameBytes cmd addr p).dropLast ++ [checksumOf (frameBytes cmd addr p).dropLast]

/-- 30_encoding.md R42: a frame with its checksum sums to 0; a single changed byte is caught; two changes that cancel, and a
reordering, are not. -/
def Obligations.ChecksumCatchesSingleByteErrors : Prop :=
  (∀ (s : List Byte) (c : Byte), byteSum (s ++ [c]) % 256 = 0 ↔ c = checksumOf s)
    ∧ ∀ f : List Byte, byteSum f % 256 = 0 →
      (∀ (i : Nat) (b : Byte), i < f.length → b ≠ byteAt f i → byteSum (f.set i b) % 256 ≠ 0)
      ∧ (∀ (i j : Nat) (b c : Byte), i < f.length → j < f.length → i ≠ j → b + c = byteAt f i + byteAt f j →
          byteSum ((f.set i b).set j c) % 256 = 0)
      ∧ ∀ g : List Byte, f.Perm g → byteSum g % 256 = 0

/-- 30_encoding.md R38 to R40: one frame layout in both directions, with `length = n + 3` and `n + 5` bytes in all. A
received length byte below 3 or above 30 is rejected. -/
def Obligations.FramesHaveOneLayout : Prop :=
  (∀ (cmd addr : Byte) (p : List Byte), p.length ≤ 26 →
      ∃ L c : Byte, frameBytes cmd addr p = [0xA0, L, addr, cmd] ++ p ++ [c]
        ∧ L.toNat = p.length + 3 ∧ c = checksumOf ([0xA0, L, addr, cmd] ++ p)
        ∧ (frameBytes cmd addr p).length = p.length + 5 ∧ 3 ≤ L.toNat ∧ L.toNat ≤ 29)
    ∧ (∀ (strict : Bool) (c : List Byte) (f : ResponseFrame), decodeFrame strict c = .ok f →
      c.take (f.data.length + 5) = [0xA0, f.length, f.address, f.command] ++ f.data ++ [f.checksum]
        ∧ f.head = 0xA0 ∧ f.length.toNat = f.data.length + 3 ∧ f.data.length + 5 ≤ c.length
        ∧ 3 ≤ f.length.toNat ∧ f.length.toNat ≤ 30)
    ∧ ∀ (strict : Bool) (c : List Byte), 5 ≤ c.length → byteAt c 0 = 0xA0 →
      ((byteAt c 1).toNat < 3 ∨ 30 < (byteAt c 1).toNat) → decodeFrame strict c = .error .lengthMismatch

/-- 40_frame_codec.md R50, R51, and 30_encoding.md R45: ENCODE for every command code and address, its packet's wire bytes
and when its checksum is 0; its refusal of a longer payload; and the general ENCODE request as an instruction, which sends
those bytes, or emits nothing when refused. -/
def Obligations.EncodeBuildsAndSendsThePacket : Prop :=
  ∀ (cmd addr : Byte) (p : List Byte),
    (p.length ≤ 26 → ∃ k, encodePacket cmd p addr = .ok k
        ∧ k.head = 0xA0 ∧ k.length.toNat = p.length + 3 ∧ k.address = addr ∧ k.command = cmd ∧ k.payload = p
        ∧ k.toBytes = [0xA0, k.length, addr, cmd] ++ p ++ [k.checksum]
        ∧ k.toBytes.length = p.length + 5 ∧ byteSum k.toBytes % 256 = 0
        ∧ (k.checksum = 0 ↔ byteSum ([0xA0, k.length, addr, cmd] ++ p) % 256 = 0)
        ∧ ∀ s : State, sendReady s → exec (.encode cmd addr p) s = .next (sentState k.toBytes s))
    ∧ (26 < p.length → encodePacket cmd p addr = .error .payloadTooLong
        ∧ ∀ s : State, sendReady s → exec (.encode cmd addr p) s = .next (refusedState .payloadTooLong s))

/-- 40_frame_codec.md R52: VERIFY on its domain (the head byte, a length byte of a frame, and as many bytes as it says)
compares the last byte with the checksum of those before it, which is the test that all bytes sum to 0. Elsewhere it is refused;
so it is on all bytes that fail DECODE's structural checks. -/
def Obligations.VerifyIsTheZeroSumTest : Prop :=
  ∀ s : List Byte,
    (byteAt s 0 = 0xA0 ∧ 3 ≤ (byteAt s 1).toNat ∧ (byteAt s 1).toNat ≤ 30 ∧ s.length = (byteAt s 1).toNat + 2 →
      verify s = some (decide (checksumOf (s.take (s.length - 1)) = byteAt s (s.length - 1)))
        ∧ verify s = some (decide (byteSum s % 256 = 0)))
    ∧ (¬(byteAt s 0 = 0xA0 ∧ 3 ≤ (byteAt s 1).toNat ∧ (byteAt s 1).toNat ≤ 30 ∧ s.length = (byteAt s 1).toNat + 2) →
      verify s = none)
    ∧ ∀ k : FrameError, decodeFrame false s = .error k → verify s = none

/-- 40_frame_codec.md R53 to R56: DECODE makes its checks in the order TooShort, BadHeader, LengthMismatch,
ChecksumMismatch, and otherwise returns the frame, field by field. By default a checksum mismatch rejects nothing. -/
def Obligations.DecodeChecksInOrder : Prop :=
  State.reset.strict = false ∧ ∀ (strict : Bool) (c : List Byte),
    (c.length < 5 → decodeFrame strict c = .error .tooShort)
    ∧ (5 ≤ c.length → byteAt c 0 ≠ 0xA0 → decodeFrame strict c = .error .badHeader)
    ∧ (5 ≤ c.length → byteAt c 0 = 0xA0 → ∀ L, L = (byteAt c 1).toNat →
      (¬(3 ≤ L ∧ L - 3 ≤ 27 ∧ L + 2 ≤ c.length) → decodeFrame strict c = .error .lengthMismatch)
      ∧ (3 ≤ L ∧ L - 3 ≤ 27 ∧ L + 2 ≤ c.length →
        (strict = true → checksumOf (c.take (L + 1)) ≠ byteAt c (L + 1) →
          decodeFrame strict c = .error .checksumMismatch)
        ∧ ((strict = true → checksumOf (c.take (L + 1)) = byteAt c (L + 1)) →
          decodeFrame strict c = .ok
            { head := 0xA0, length := byteAt c 1, address := byteAt c 2, command := byteAt c 3
              data := (c.drop 4).take (L - 3), checksum := byteAt c (L + 1)
              chkCalc := checksumOf (c.take (L + 1))
              chkOk := decide (checksumOf (c.take (L + 1)) = byteAt c (L + 1)) })))

/-- 40_frame_codec.md R57, 20_memory.md R30: the bytes past the first `L + 2`, with `L` the length byte, are never read, so a
second frame in the chunk is lost; and a frame that decodes is decoded from its own bytes alone. -/
def Obligations.DecodeReadsTheFrameOnly : Prop :=
  ∀ (strict : Bool) (c : List Byte),
    (5 ≤ c.length → (byteAt c 1).toNat + 2 ≤ c.length →
      ∀ rest : List Byte, decodeFrame strict (c ++ rest) = decodeFrame strict c)
    ∧ ∀ f : ResponseFrame, decodeFrame strict c = .ok f → decodeFrame strict (c.take (f.length.toNat + 2)) = .ok f

/-- 40_frame_codec.md R59: the round trip, in both checksum modes. -/
def Obligations.DecodedCommandIsTheCommand : Prop :=
  ∀ (strict : Bool) (cmd addr : Byte) (p : List Byte), p.length ≤ 26 →
    ∃ k, encodePacket cmd p addr = .ok k ∧ ∃ f, decodeFrame strict k.toBytes = .ok f
      ∧ f.head = 0xA0 ∧ f.address = addr ∧ f.command = cmd ∧ f.data = p ∧ f.length.toNat = p.length + 3
      ∧ f.checksum = f.chkCalc ∧ f.chkOk = true

/-- 70_reset_and_hazards.md R120: a frame cut in two is lost. It may be any frame that decodes (with any checksum byte, as
`decodeFrame false` admits, and up to 27 data bytes), cut anywhere and received in either checksum mode. The first part is
TooShort or LengthMismatch; the second, unless it begins with the head byte, is TooShort or BadHeader. Every command packet
is such a frame. -/
def Obligations.SplitFrameIsLost : Prop :=
  (∀ (strict : Bool) (c : List Byte) (f : ResponseFrame) (k : Nat),
    decodeFrame false c = .ok f → c.length = f.length.toNat + 2 → 0 < k → k < c.length →
    decodeFrame strict (c.take k) = .error (if k < 5 then .tooShort else .lengthMismatch)
    ∧ (byteAt (c.drop k) 0 ≠ 0xA0 →
        decodeFrame strict (c.drop k) = .error (if c.length < k + 5 then .tooShort else .badHeader)))
    ∧ ∀ (cmd addr : Byte) (p : List Byte), p.length ≤ 26 →
      ∃ f, decodeFrame false (frameBytes cmd addr p) = .ok f
        ∧ (frameBytes cmd addr p).length = f.length.toNat + 2

/-! ## The instructions -/

/-- 41_command_catalog.md R62, R63, R66, R68, R70, R72, R74: the commands with no payload, each with its checksum in closed
form. Everything but the transmit stream and the history is unchanged. -/
def Obligations.NoPayloadCommandsSend : Prop :=
  ∀ (a : Byte) (s : State), sendReady s →
    exec (.reset a []) s = .next (sentState [0xA0, 0x03, a, 0x70, 0xED - a] s)
    ∧ exec (.getFirmwareVersion a []) s = .next (sentState [0xA0, 0x03, a, 0x72, 0xEB - a] s)
    ∧ exec (.getFrequencyRegion a []) s = .next (sentState [0xA0, 0x03, a, 0x79, 0xE4 - a] s)
    ∧ exec (.getWorkingAntenna a []) s = .next (sentState [0xA0, 0x03, a, 0x75, 0xE8 - a] s)
    ∧ exec (.getOutputPower a []) s = .next (sentState [0xA0, 0x03, a, 0x77, 0xE6 - a] s)
    ∧ exec (.getDrmMode a []) s = .next (sentState [0xA0, 0x03, a, 0x7D, 0xE0 - a] s)
    ∧ exec (.getAntDetectMode a []) s = .next (sentState [0xA0, 0x03, a, 0x63, 0xFA - a] s)

/-- 41_command_catalog.md R64, R67, R69, R71, R73, R76, R77: the commands with one opaque payload byte; and R65, the one with
three, in the order region, start, stop. -/
def Obligations.PayloadCommandsSend : Prop :=
  ∀ (a p start stop : Byte) (s : State), sendReady s →
    exec (.setBaudRate a [p]) s = .next (sentState [0xA0, 0x04, a, 0x71, p, 0xEB - a - p] s)
    ∧ exec (.setWorkingAntenna a [p]) s = .next (sentState [0xA0, 0x04, a, 0x74, p, 0xE8 - a - p] s)
    ∧ exec (.setOutputPower a [p]) s = .next (sentState [0xA0, 0x04, a, 0x76, p, 0xE6 - a - p] s)
    ∧ exec (.setDrmMode a [p]) s = .next (sentState [0xA0, 0x04, a, 0x7C, p, 0xE0 - a - p] s)
    ∧ exec (.setAntDetectMode a [p]) s = .next (sentState [0xA0, 0x04, a, 0x62, p, 0xFA - a - p] s)
    ∧ exec (.startRealtimeInventory a [p]) s = .next (sentState [0xA0, 0x04, a, 0x89, p, 0xD3 - a - p] s)
    ∧ exec (.startNamedInventory a [p]) s = .next (sentState [0xA0, 0x04, a, 0x80, p, 0xDC - a - p] s)
    ∧ exec (.setFrequencyRegion a [p, start, stop]) s
        = .next (sentState [0xA0, 0x06, a, 0x78, p, start, stop, 0xE2 - a - p - start - stop] s)

/-- 41_command_catalog.md R75: SET_READER_ADDRESS sends every new address but 0xFF, which it refuses; nothing else changes. -/
def Obligations.SetReaderAddressRefusesBroadcast : Prop :=
  ∀ (a new : Byte) (s : State), sendReady s →
    (new ≠ 0xFF → exec (.setReaderAddress a [new]) s
        = .next (sentState [0xA0, 0x04, a, 0x73, new, 0xE9 - a - new] s))
    ∧ (new = 0xFF → exec (.setReaderAddress a [new]) s = .next (refusedState .addressOutOfRange s))

/-- 41_command_catalog.md R61: a catalog request with the wrong payload size is refused, whatever the payload (so before the
address range of R75: 60_exceptions.md R105); any other does exactly what ENCODE of its code does, but for the one refused
address. -/
def Obligations.CatalogRequestIsItsEncode : Prop :=
  ∀ (i : Instr) (s : State), isCatalog i = true → sendReady s →
    ∃ n, catalogArity i.code = some n
      ∧ (i.payload.length ≠ n → exec i s = .next (refusedState .badOperandCount s))
      ∧ (i.payload.length = n → (∀ a, i ≠ .setReaderAddress a [0xFF]) →
          exec i s = exec (.encode i.code i.addr i.payload) s
          ∧ exec i s = .next (sentState (encode i) s))

/-- 40_frame_codec.md R60: the step SEND. It is enabled exactly while boot is done and no event is pending; an admitted
request is handed to the transport and recorded, and a refused one emits nothing. That a request has no effect while an event
is pending is the model's form of "not enabled" (log entry 12). -/
def Obligations.SendStepTransmitsTheRequest : Prop :=
  ∀ (i : Instr) (s : State),
    (enabled (.send (.call i)) s = true ↔ s.booted = true ∧ s.rxPending = none)
    ∧ (sendReady s →
      (i.wellFormed = true → take (.send (.call i)) s = .next (sentState (encode i) s))
      ∧ (i.wellFormed = false → ∃ r, take (.send (.call i)) s = .next (refusedState r s)))
    ∧ (s.booted = true → s.rxPending ≠ none → exec i s = .next s)

/-- Requests carried as frame bytes (the model's carrier, log entries 8 and 9): decoding the frame of a well-formed request
that is its frame's canonical name gives it back. -/
def Obligations.RequestFrameDecodesBack : Prop :=
  ∀ i : Instr, i.wellFormed = true → i.canonical = true → decode (encode i) = .ok i

/-- A general ENCODE request whose frame a catalog mnemonic spells decodes to that mnemonic, which has the same frame and,
unless it is the refused address of R75, the same effect (30_encoding.md R49; the model's choice of name: log entry 8). -/
def Obligations.SharedFrameDecodesToTheMnemonic : Prop :=
  ∀ i : Instr, i.wellFormed = true → i.canonical = false →
    ∃ j, decode (encode i) = .ok j ∧ isCatalog j = true ∧ encode j = encode i
      ∧ (j.wellFormed = true → ∀ s : State, exec j s = exec i s)

/-- A few words written out from the encodings of spec/opcode_table.json and 41_command_catalog.md decode to their
instructions; the last three are table words (log entry 10). -/
def Obligations.CatalogWordsDecode : Prop :=
  decode [0xA0, 0x03, 0xFF, 0x70, 0xEE] = .ok (.reset 0xFF [])
    ∧ decode [0xA0, 0x04, 0xFF, 0x74, 0x00, 0xE9] = .ok (.setWorkingAntenna 0xFF [0x00])
    ∧ decode [0xA0, 0x06, 0xFF, 0x78, 0x01, 0x00, 0x06, 0xDC] = .ok (.setFrequencyRegion 0xFF [0x01, 0x00, 0x06])
    ∧ decode [0xA0, 0x04, 0xFF, 0x89, 0x01, 0xD3] = .ok (.startRealtimeInventory 0xFF [0x01])
    ∧ decode [0xA0, 0x05, 0x00, 0xFF, 0x01, 0x02, 0x59] = .ok (.encode 0xFF 0x00 [0x01, 0x02])
    ∧ decodeTableWord 40 0xEE70FF03A0 = some (.reset 0xFF [])
    ∧ decodeTableWord 8 0x71 = some (.setBaudRate 0x00 [0x00])
    ∧ decodeTableWord 40 0x7D = some (.getDrmMode 0x00 [])

/-- A request as text (30_encoding.md R49) is read back as that request. -/
def Obligations.RequestTextAssemblesBack : Prop :=
  ∀ i : Instr, parseTokens (tokenize [] (requestText i)) = some [.send (.call i)]

/-! ## The step -/

/-- The next step runs the request at the head of the schedule: exec of the instruction its bytes decode to, on the state
with the schedule moved on. Bytes that spell no request are refused by name (log entry 11). A placed table word is fetched
and run by the very next step (log entry 3). -/
def Obligations.StepRunsTheDecodedRequest : Prop :=
  (∀ (s : State) (bytes : List Byte) (rest : List Action), sendReady s → s.sched = .send (.frame bytes) :: rest →
      (∀ i, decode bytes = .ok i → step s = exec i { s with sched := rest })
      ∧ ∀ e, decode bytes = .error e → step s = .refused (.noRequest e))
    ∧ (∀ (s : State) (i : Instr) (rest : List Action), sendReady s → s.sched = .send (.call i) :: rest →
      step s = exec i { s with sched := rest })
    ∧ ∀ (s : State) (nbits w : Nat) (i : Instr), decodeTableWord nbits w = some i →
      step (s.withFetchWord nbits w) = exec i { s with booted := true, rxPending := none }

/-- 60_exceptions.md R110: every interleaving of enabled steps is a run of the machine, the one its schedule names. -/
def Obligations.EveryInterleavingIsARun : Prop :=
  ∀ (as : List Action) (s t : State), takeAll as s = some t →
    runFor as.length { s with sched := as } = .next { t with sched := [] }

/-- 60_exceptions.md R110: every step of the machine that answers a next state is an enabled step of one of the agents. -/
def Obligations.EveryStepIsAnEnabledStep : Prop :=
  ∀ s t : State, step s = .next t →
    ∃ (a : Action) (q : List Action), Moves a { s with sched := q } t ∧ (s.sched = q ∨ s.sched = a :: q)

/-- 60_exceptions.md R100: no failure stops the block. After boot, a step answers a next state whatever the state is, unless
the schedule's next step is a request carried as bytes that spell none (log entry 11). -/
def Obligations.BootedStepNeverStops : Prop :=
  ∀ s : State, s.booted = true →
    (∀ (bytes : List Byte) (rest : List Action) (e : DecodeError),
      s.sched = .send (.frame bytes) :: rest → decode bytes ≠ .error e) →
    ∃ t, step s = .next t

/-- 70_reset_and_hazards.md R118, 93_implementation_defined.md I17 (the field `booted` and the fault: log entry 2): before
the boot configuration every other step is without meaning, and boot only marks it done. -/
def Obligations.NoStepBeforeBoot : Prop :=
  ∀ s : State, s.booted = false →
    take .boot s = .next { s with booted := true }
    ∧ (∀ a : Action, a ≠ .boot → enabled a s = false ∧ take a s = .fault .stepBeforeBoot)
    ∧ (∀ i : Instr, exec i s = .fault .stepBeforeBoot)
    ∧ ∀ (a : Action) (rest : List Action), s.sched = a :: rest → a ≠ .boot → step s = .fault .stepBeforeBoot

/-- 70_reset_and_hazards.md R116, with 10_state.md R129 for the status output: the state after reset. -/
def Obligations.ResetState : Prop :=
  State.reset.fifo = [] ∧ State.reset.ls = .idle ∧ State.reset.act = .secured
    ∧ State.reset.pollCnt = 0 ∧ State.reset.relockCnt = 0 ∧ State.reset.cur = none ∧ State.reset.rxPending = none
    ∧ State.reset.now = 0 ∧ State.reset.hist = [] ∧ State.reset.refused = false
    ∧ errorCode State.reset.lastErr = 0
    ∧ State.reset.actPin = actLevel State.reset.relLevel .secured

/-- 43_lock_controller.md R87: in Idle with an empty FIFO no step of LC is enabled, and LC waits with no timeout. With nothing
scheduled and no event pending, a step is one millisecond and nothing else (the model's default step, log entry 1). Whatever
the agents do, the wait goes on unless RD pushes an event, after which POP is enabled. -/
def Obligations.IdleWaitsForAPush : Prop :=
  ∀ s : State, s.booted = true → s.ls = .idle → s.fifo = [] →
    (∀ a : Action, isLockStep a = true → enabled a s = false)
    ∧ (s.rxPending = none → s.sched = [] → step s = .next { s with now := s.now + 1 })
    ∧ ∀ (a : Action) (t : State), take a s = .next t → t.ls = .idle
      ∧ ((t.fifo = [] ∧ ∀ b : Action, isLockStep b = true → enabled b t = false)
        ∨ (((∃ c, a = .rxChunk c) ∨ a = .pushRetry)
          ∧ ∃ e h, t.fifo = [e] ∧ t.hist = s.hist ++ h ++ [.pushed e] ∧ enabled .pop t = true))

/-! ## The producer -/

/-- 42_inventory_decoder.md R78 to R80, 10_state.md R17: which frames yield a tag event, its layout, and for a decoded frame
its widths: 2 PC bytes, 12 EPC bytes, at most 12 trailing bytes, all the data in order. -/
def Obligations.ExtractTagByDataLength : Prop :=
  ∀ f : ResponseFrame,
    (f.data.length ≤ 10 → extractTag f = none)
    ∧ (10 < f.data.length → f.data.length < 15 → extractTag f = none)
    ∧ (15 ≤ f.data.length → extractTag f = some
        { ant := byteAt f.data 0, pc := (f.data.drop 1).take 2, epc := (f.data.drop 3).take 12
          trailing := f.data.drop 15 })
    ∧ ∀ (strict : Bool) (c : List Byte) (e : TagEvent), decodeFrame strict c = .ok f → extractTag f = some e →
      e.pc.length = 2 ∧ e.epc.length = 12 ∧ e.trailing.length ≤ 12 ∧ e.ant :: (e.pc ++ e.epc ++ e.trailing) = f.data

/-- 42_inventory_decoder.md R81, 70_reset_and_hazards.md R122: the checksum, the command and the address are not looked at.
A frame with at least 15 data bytes and any checksum is pushed in the default mode. -/
def Obligations.CorruptedTagFrameIsPushed : Prop :=
  (∀ f g : ResponseFrame, f.data = g.data → extractTag f = extractTag g)
    ∧ ∀ (c : List Byte) (s : State), sendReady s → s.strict = false → s.fifo.length < 10 → byteAt c 0 = 0xA0 →
      18 ≤ (byteAt c 1).toNat → (byteAt c 1).toNat ≤ 30 → (byteAt c 1).toNat + 2 ≤ c.length →
      ∃ e t, take (.rxChunk c) s = .next t ∧ t.fifo = s.fifo ++ [e] ∧ e.epc = (c.drop 7).take 12

/-- 42_inventory_decoder.md R82, 60_exceptions.md R102: RX_CHUNK. An error is recorded, the chunk dropped, and every step is
enabled as before. What the status output of the last FrameError shows afterwards is left open here (`x`):
StatusShowsTheLastDecode says it. -/
def Obligations.RxChunkDecodesAndPushes : Prop :=
  ∀ (c : List Byte) (s : State),
    (enabled (.rxChunk c) s = true ↔ s.booted = true ∧ s.rxPending = none)
    ∧ (sendReady s →
      (c = [] → take (.rxChunk c) s = .next { s with hist := s.hist ++ [.rxEmpty] })
      ∧ (c ≠ [] → ∃ x,
        (∀ k, decodeFrame s.strict c = .error k →
          ∃ t, take (.rxChunk c) s = .next t ∧ t = { s with hist := s.hist ++ [.rxError k], lastErr := x }
            ∧ ∀ a : Action, enabled a t = enabled a s)
        ∧ ∀ f, decodeFrame s.strict c = .ok f →
          (extractTag f = none → take (.rxChunk c) s = .next { s with hist := s.hist ++ [.rxFrame f], lastErr := x })
          ∧ ∀ e, extractTag f = some e →
            (s.fifo.length < 10 → take (.rxChunk c) s = .next
              { s with fifo := s.fifo ++ [e], hist := s.hist ++ [.rxFrame f, .pushed e], lastErr := x })
            ∧ (10 ≤ s.fifo.length → take (.rxChunk c) s = .next
              { s with rxPending := some e, hist := s.hist ++ [.rxFrame f], lastErr := x })))

/-- What the status output of the last FrameError shows after each step (10_state.md R14, R129). That a good decode shows
code 0 is the model's reading of R14: log entry 7. -/
def Obligations.StatusShowsTheLastDecode : Prop :=
  ∀ (a : Action) (s t : State), take a s = .next t →
    (t.lastErr = s.lastErr ∧ ((∀ c, a ≠ .rxChunk c) ∨ (∃ c, a = .rxChunk c ∧ (c = [] ∨ s.rxPending ≠ none))))
    ∨ (∃ c k, a = .rxChunk c ∧ c ≠ [] ∧ s.rxPending = none ∧ decodeFrame s.strict c = .error k ∧ t.lastErr = some k)
    ∨ (∃ c f, a = .rxChunk c ∧ c ≠ [] ∧ s.rxPending = none ∧ decodeFrame s.strict c = .ok f ∧ t.lastErr = none)

/-- 42_inventory_decoder.md R84: PUSH_RETRY, and that only POP can make it enabled. -/
def Obligations.PushRetryCompletesThePush : Prop :=
  ∀ s : State, s.booted = true →
    (enabled .pushRetry s = true ↔ (∃ e, s.rxPending = some e) ∧ s.fifo.length < 10)
    ∧ (∀ e, s.rxPending = some e → s.fifo.length < 10 →
      take .pushRetry s = .next
        { s with fifo := s.fifo ++ [e], hist := s.hist ++ [.pushed e], rxPending := none })
    ∧ ∀ (a : Action) (t : State), a ≠ .pop → enabled .pushRetry s = false → take a s = .next t →
      enabled .pushRetry t = false

/-- 42_inventory_decoder.md R85: while an event is pending, RD sends nothing and takes no chunk, and no step
but PUSH_RETRY lifts the hold, which the next POP makes enabled. -/
def Obligations.HeldProducerWaits : Prop :=
  ∀ (s : State) (e : TagEvent), s.booted = true → s.rxPending = some e →
    (∀ r, enabled (.send r) s = false) ∧ (∀ c, enabled (.rxChunk c) s = false)
    ∧ (enabled .pushRetry s = true ↔ s.fifo.length < 10)
    ∧ (∀ (a : Action) (t : State), a ≠ .pushRetry → take a s = .next t → t.rxPending = some e)
    ∧ ∀ t : State, s.fifo.length ≤ 10 → enabled .pop s = true → take .pop s = .next t → enabled .pushRetry t = true

/-- 42_inventory_decoder.md R83: what was pushed or is pending grows by exactly the event of a chunk's frame, and by nothing
in any other step: no event is pushed twice or dropped. -/
def Obligations.EveryTagFrameIsPushedOnce : Prop :=
  ∀ (a : Action) (s t : State), enabled a s = true → take a s = .next t →
    ∃ es : List TagEvent, es.length ≤ 1
      ∧ pushedOf t.hist ++ t.rxPending.toList = pushedOf s.hist ++ s.rxPending.toList ++ es
      ∧ (∀ c f, a = .rxChunk c → decodeFrame s.strict c = .ok f → es = (extractTag f).toList)
      ∧ ((∀ c f, a = .rxChunk c → decodeFrame s.strict c ≠ .ok f) → es = [])

/-- 42_inventory_decoder.md R85 (the source's backpressure property): an 11th event waits, and enters the FIFO behind the
others once POP has made room. -/
def Obligations.EleventhEventWaitsForAPop : Prop :=
  ∀ (c : List Byte) (s : State) (f : ResponseFrame) (e first : TagEvent) (rest : List TagEvent),
    sendReady s → s.ls = .idle → s.fifo = first :: rest → rest.length = 9 → c ≠ [] →
    decodeFrame s.strict c = .ok f → extractTag f = some e →
    (∃ t, takeAll [.rxChunk c] s = some t ∧ t.fifo = s.fifo ∧ t.rxPending = some e ∧ enabled .pushRetry t = false)
    ∧ ∃ t, takeAll [.rxChunk c, .pop, .pushRetry] s = some t ∧ t.fifo = rest ++ [e] ∧ t.rxPending = none
      ∧ t.cur = some first

/-! ## The lock controller and time -/

/-- 43_lock_controller.md R88: POP, and that no other step frees FIFO space. -/
def Obligations.PopReleasesTheLock : Prop :=
  (∀ s : State, s.booted = true →
      (enabled .pop s = true ↔ s.ls = .idle ∧ s.fifo ≠ [])
      ∧ ∀ e rest, s.ls = .idle → s.fifo = e :: rest →
        take .pop s = .next
          { s with
            fifo := rest, cur := some e, act := .released, actPin := s.relLevel, ls := .engaged
            hist := s.hist ++ [.popped e, .drive .released] })
    ∧ ∀ (a : Action) (s t : State), a ≠ .pop → take a s = .next t → s.fifo.length ≤ t.fifo.length

/-- 43_lock_controller.md R89: ENGAGE, after which SAMPLE is due at once; no time passes before either. -/
def Obligations.EngageArmsTheFirstSample : Prop :=
  ∀ s : State, s.booted = true →
    (enabled .engage s = true ↔ s.ls = .engaged)
    ∧ (s.ls = .engaged → enabled .tick s = false
        ∧ ∃ t, take .engage s = .next t ∧ t = { s with ls := .waitingForOverride, pollCnt := 0 }
          ∧ enabled .sample t = true ∧ enabled .tick t = false)

/-- 43_lock_controller.md R90: SAMPLE. The pin is active-low; `act` is not written. -/
def Obligations.SampleReadsThePinOnce : Prop :=
  ∀ s : State, s.booted = true →
    (enabled .sample s = true ↔ s.ls = .waitingForOverride ∧ s.pollCnt = 0)
    ∧ (s.ls = .waitingForOverride → s.pollCnt = 0 →
      (s.ovrPin = false → take .sample s = .next
        { s with hist := s.hist ++ [.sample false], ls := .relocking, relockCnt := 4000 })
      ∧ (s.ovrPin = true → take .sample s = .next { s with hist := s.hist ++ [.sample true], pollCnt := 100 }))

/-- 43_lock_controller.md R92, R99: RELOCK_DONE, after which POP goes before any time passes if an event waits, and LC's
fields are at their reset values. -/
def Obligations.RelockDoneSecuresTheLock : Prop :=
  ∀ s : State, s.booted = true →
    (enabled .relockDone s = true ↔ s.ls = .relocking ∧ s.relockCnt = 0)
    ∧ (s.ls = .relocking → s.relockCnt = 0 → ∃ t, take .relockDone s = .next t
        ∧ t = { s with
            act := .secured, actPin := !s.relLevel, cur := none, ls := .idle
            hist := s.hist ++ [.drive .secured] }
        ∧ (s.fifo ≠ [] → enabled .pop t = true ∧ enabled .tick t = false)
        ∧ (ControllerInv s → t.ls = State.reset.ls ∧ t.act = State.reset.act ∧ t.cur = State.reset.cur
            ∧ t.pollCnt = State.reset.pollCnt ∧ t.relockCnt = State.reset.relockCnt))

/-- 43_lock_controller.md R93: TICK. It is enabled when no step of LC is, counts one millisecond, and counts down the counter
of the present state. -/
def Obligations.TickCountsDown : Prop :=
  ∀ s : State, s.booted = true →
    (enabled .tick s = true ↔ ∀ a : Action, isLockStep a = true → enabled a s = false)
    ∧ (enabled .tick s = true →
      (s.ls = .idle → take .tick s = .next { s with now := s.now + 1 })
      ∧ (s.ls = .waitingForOverride → 0 < s.pollCnt
          ∧ take .tick s = .next { s with now := s.now + 1, pollCnt := s.pollCnt - 1 })
      ∧ (s.ls = .relocking → 0 < s.relockCnt
          ∧ take .tick s = .next { s with now := s.now + 1, relockCnt := s.relockCnt - 1 })
      ∧ s.ls ≠ .engaged)

/-- 43_lock_controller.md R94, 60_exceptions.md R115: at most one step of LC is enabled, TICK is enabled exactly when none
is, and so the block never stops; where none is enabled, LC is idle on an empty FIFO or waits on a counter. -/
def Obligations.LockStepsGoBeforeTime : Prop :=
  ∀ s : State, s.booted = true →
    (∀ a b : Action, isLockStep a = true → isLockStep b = true → enabled a s = true → enabled b s = true → a = b)
    ∧ (enabled .tick s = true ∨ ∃ a : Action, isLockStep a = true ∧ enabled a s = true)
    ∧ (settled s = true → enabled .tick s = true
      ∧ ((s.ls = .idle ∧ s.fifo = []) ∨ (s.ls = .waitingForOverride ∧ 0 < s.pollCnt)
          ∨ (s.ls = .relocking ∧ 0 < s.relockCnt)))

/-- 60_exceptions.md R110: PIN(v) sets the pin's level, at any step, and writes nothing of the block; and 42 R86: a read that
fails is no step. -/
def Obligations.PinAndFailedReadsWriteNothing : Prop :=
  ∀ s : State, s.booted = true →
    (∀ v, enabled (.pin v) s = true ∧ take (.pin v) s = .next { s with ovrPin := v })
    ∧ take .readFails s = .next s

/-- 43_lock_controller.md R96: the pin is read by an enabled SAMPLE only; at every other step its level makes no difference. -/
def Obligations.OnlySampleReadsThePin : Prop :=
  ∀ (a : Action) (v : Bool) (s : State), enabled a (withPin v s) = enabled a s
    ∧ ((∀ w, a ≠ .pin w) → ¬(a = .sample ∧ s.ls = .waitingForOverride ∧ s.pollCnt = 0) →
        take a (withPin v s) = mapNext (withPin v) (take a s))

/-- 43_lock_controller.md R97: with no sample that reads pressed, whatever else the agents do, LC stays in
WaitingForOverride with the actuator as it is, and nothing leaves the FIFO. -/
def Obligations.WaitsForOverrideForEver : Prop :=
  ∀ (as : List Action) (s t : State), takeAll as s = some t → s.ls = .waitingForOverride →
    ∃ h, t.hist = s.hist ++ h
      ∧ (Event.sample false ∉ h → t.ls = .waitingForOverride ∧ t.act = s.act ∧ t.actPin = s.actPin ∧ t.cur = s.cur
          ∧ s.fifo <+: t.fifo)

/-- 70_reset_and_hazards.md R126: with the FIFO full, an event pending and LC waiting, RD neither sends nor receives until a
sample reads pressed. -/
def Obligations.FullFifoStallsTheReader : Prop :=
  ∀ (as : List Action) (s t : State), takeAll as s = some t → s.ls = .waitingForOverride → s.fifo.length = 10 →
    s.rxPending ≠ none →
    ∃ h, t.hist = s.hist ++ h
      ∧ (Event.sample false ∉ h → t.fifo = s.fifo ∧ t.rxPending = s.rxPending ∧ t.tx = s.tx
          ∧ ∀ ev ∈ h, ev = .sample true)

/-- 43_lock_controller.md R94: the delays are exact under every interleaving. Between two samples, and through the re-lock
delay, the time and the counter have a constant sum. -/
def Obligations.DelaysAreExact : Prop :=
  ∀ (as : List Action) (s t : State), takeAll as s = some t →
    (s.ls = .relocking → Action.relockDone ∉ as →
        t.ls = .relocking ∧ t.now + t.relockCnt = s.now + s.relockCnt ∧ t.act = s.act)
    ∧ (s.ls = .waitingForOverride → Action.sample ∉ as →
        t.ls = .waitingForOverride ∧ t.now + t.pollCnt = s.now + s.pollCnt ∧ t.act = s.act)

/-- 70_reset_and_hazards.md R123: a press of more than 100 ms in WaitingForOverride is seen, whatever the interleaving. -/
def Obligations.LongPressIsSeen : Prop :=
  ∀ (as : List Action) (s t : State), takeAll as s = some t → s.ls = .waitingForOverride → s.pollCnt ≤ 100 →
    s.ovrPin = false → Action.pin true ∉ as → s.now + 100 < t.now →
    ∃ h, t.hist = s.hist ++ h ∧ Event.sample false ∈ h

/-- 43_lock_controller.md R98: release duration, under every interleaving. Let a POP happen at time `s.now`, and let no
RELOCK_DONE have come since. The actuator is released; the k-th sample is `100 (k - 1)` ms after the POP; and a RELOCK_DONE
that comes next finds samples that read not pressed but for the last, the k-th, and secures the actuator `100 (k - 1) + 4000`
ms after the POP. -/
def Obligations.ReleaseDuration : Prop :=
  ∀ (as : List Action) (s u : State), takeAll (.pop :: as) s = some u → Action.relockDone ∉ as →
    ∃ h, u.hist = s.hist ++ h ∧ u.act = .released ∧ u.actPin = u.relLevel
      ∧ (enabled .sample u = true → u.now = s.now + 100 * (samplesOf h).length)
      ∧ ∀ t, Moves .relockDone u t → ∃ k, 1 ≤ k ∧ samplesOf h = List.replicate (k - 1) true ++ [false]
        ∧ t.now = s.now + (100 * (k - 1) + 4000) ∧ t.act = .secured ∧ t.actPin = !t.relLevel

/-- One whole cycle, run (43_lock_controller.md R95, R98; the order of the steps is the model's default, log entry 1). The pin
is pressed at the instant of the k-th sample; the history is POP, Drive, `k - 1` samples not pressed, one pressed, Drive. -/
def Obligations.LockCycleRunsToCompletion : Prop :=
  ∀ (k : Nat) (s : State) (e : TagEvent) (rest : List TagEvent), 1 ≤ k → sendReady s → ControllerInv s →
    s.ls = .idle → s.fifo = e :: rest → s.ovrPin = true →
    s.sched = List.replicate (100 * (k - 1)) .tick ++ [.pin false] →
    ∃ t, runFor (100 * (k - 1) + k + 4004) s = .next t
      ∧ t.ls = .idle ∧ t.act = .secured ∧ t.actPin = !s.relLevel ∧ t.cur = none ∧ t.fifo = rest
      ∧ t.now = s.now + (100 * (k - 1) + 4000)
      ∧ t.hist = s.hist ++ ([.popped e, .drive .released] ++ List.replicate (k - 1) (.sample true)
          ++ [.sample false, .drive .secured])

/-- 60_exceptions.md R114: in a weakly fair run in which the pin stays pressed, LC returns to Idle from any state. -/
def Obligations.FairRunReturnsToIdle : Prop :=
  ∀ (path : Nat → State) (steps : Nat → Action) (n : Nat), IsRun path steps → WeaklyFair path steps →
    (path n).booted = true → (∀ m, n ≤ m → (path m).ovrPin = false) → ∃ m, n ≤ m ∧ (path m).ls = .idle

/-! ## The whole machine -/

/-- Reset meets every invariant. -/
def Obligations.ResetMeetsTheInvariants : Prop := MachineInv State.reset

/-- 10_state.md R19 to R22: every step keeps the controller's fields in agreement. -/
def Obligations.StepKeepsControllerInv : Prop :=
  ∀ s t : State, ControllerInv s → step s = .next t → ControllerInv t

/-- 10_state.md R13, R17, R18, 40_frame_codec.md R56: every step keeps the FIFO within its depth and every event at its
widths, and every frame that is delivered has its shape and, in strict mode, a matching checksum. -/
def Obligations.StepKeepsValueShapes : Prop :=
  (∀ s t : State, EventsInv s → step s = .next t → EventsInv t)
    ∧ ∀ s t : State, FramesInv s → step s = .next t → FramesInv t

/-- 20_memory.md R34: events leave in the order they entered, none dropped or duplicated. It holds at reset, every step
keeps it, and by it the popped events are a prefix of the pushed ones. -/
def Obligations.FifoDeliversInOrder : Prop :=
  OrderInv State.reset
    ∧ (∀ s t : State, OrderInv s → step s = .next t → OrderInv t)
    ∧ ∀ s : State, OrderInv s → poppedOf s.hist <+: pushedOf s.hist

/-- 43_lock_controller.md R95, R99: the history follows the cycle (popped, released, samples up to a pressed one, secured)
and one cycle never interleaves with the next. -/
def Obligations.StepKeepsCycleInv : Prop :=
  ∀ s t : State, CycleInv s → step s = .next t → CycleInv t

/-- 10_state.md R16, R20, 60_exceptions.md R104: every step keeps the actuator pin at the level of `act`, `act` at the last
Drive, the transmit stream at the Tx events, and the sticky mark at the refusals. -/
def Obligations.StepKeepsOutputsInv : Prop :=
  ∀ s t : State, OutputsInv s → step s = .next t → OutputsInv t

/-- Every state that any schedule reaches from reset meets every invariant. -/
def Obligations.ReachedStatesMeetTheInvariants : Prop :=
  ∀ (q : List Action) (n : Nat) (t : State), runFor n { State.reset with sched := q } = .next t → MachineInv t

/-- 60_exceptions.md R107, R111, 10_state.md R129, 70_reset_and_hazards.md R118: which steps may write what. Only LC writes `ls`,
`act` and `cur`, and the timers but for TICK's countdown (log entry 14); only RX_CHUNK and PUSH_RETRY write `rxPending` and the
FIFO's tail, and RX_CHUNK alone the status output; only POP removes the FIFO's head. Only the boot configuration writes
`booted`, and nothing clears it. No step writes a setting or, once it is taken, the schedule. -/
def Obligations.OnlyOwnersWrite : Prop :=
  ∀ (a : Action) (s t : State), take a s = .next t →
    (isLockStep a = false → t.ls = s.ls ∧ t.act = s.act ∧ t.actPin = s.actPin ∧ t.cur = s.cur
        ∧ (a ≠ .tick → t.pollCnt = s.pollCnt ∧ t.relockCnt = s.relockCnt))
    ∧ ((∀ c, a ≠ .rxChunk c) → t.lastErr = s.lastErr ∧ (a ≠ .pushRetry → t.rxPending = s.rxPending ∧ t.fifo <:+ s.fifo))
    ∧ (a ≠ .pop → s.fifo <+: t.fifo)
    ∧ ((∀ r, a ≠ .send r) → t.tx = s.tx)
    ∧ ((∀ v, a ≠ .pin v) → t.ovrPin = s.ovrPin)
    ∧ (a ≠ .boot → t.booted = s.booted) ∧ (s.booted = true → t.booted = true)
    ∧ t.strict = s.strict ∧ t.relLevel = s.relLevel ∧ t.sched = s.sched

/-- 10_state.md R24: no step's result depends on the bookkeeping fields. -/
def Obligations.BookkeepingIsNeverRead : Prop :=
  ∀ (a : Action) (s : State), enabled a (hardware s) = enabled a s
    ∧ mapNext hardware (take a (hardware s)) = mapNext hardware (take a s)

/-- 10_state.md R24, 60_exceptions.md R104: only TICK increments `now`, the history is append-only, and the sticky mark is
set by a refused request and never cleared. -/
def Obligations.BookkeepingOnlyGrows : Prop :=
  ∀ (a : Action) (s t : State), take a s = .next t →
    (∃ h, t.hist = s.hist ++ h ∧ (t.refused = true ↔ s.refused = true ∨ ∃ r, Event.refused r ∈ h))
    ∧ (a ≠ .tick → t.now = s.now) ∧ (enabled a s = true → a = .tick → t.now = s.now + 1)

/-- 60_exceptions.md R104: a refused request emits no bytes and writes no hardware state, and stops no other agent. -/
def Obligations.RefusedRequestEmitsNothing : Prop :=
  ∀ (i : Instr) (s : State), sendReady s → i.wellFormed = false →
    ∃ r t, exec i s = .next t ∧ t = refusedState r s ∧ t.tx = s.tx ∧ hardware t = hardware s
      ∧ (∀ a : Action, enabled a t = enabled a s)
      ∧ ∀ (a : Action) (u : State), take a t = .next u → u.refused = true

/-- 10_state.md R14 to R16, R129, 60_exceptions.md R101: the read-only status outputs, the numeric codes, and the actuator's
electrical level. -/
def Obligations.StatusOutputsAndCodes : Prop :=
  (∀ s : State, s.fifo.length ≤ 10 → s.status.fifoCount.toNat = s.fifo.length
      ∧ (s.status.held = true ↔ ∃ e, s.rxPending = some e)
      ∧ s.status.ls = s.ls.code ∧ s.status.act = s.act.code ∧ s.status.lastErr = errorCode s.lastErr)
    ∧ LockState.idle.code = 0 ∧ LockState.engaged.code = 1 ∧ LockState.waitingForOverride.code = 2
    ∧ LockState.relocking.code = 3 ∧ ActCond.secured.code = 0 ∧ ActCond.released.code = 1
    ∧ errorCode none = 0 ∧ errorCode (some .tooShort) = 1 ∧ errorCode (some .badHeader) = 2
    ∧ errorCode (some .lengthMismatch) = 3 ∧ errorCode (some .checksumMismatch) = 4
    ∧ RefuseReason.payloadTooLong.code = 1 ∧ RefuseReason.badOperandCount.code = 2
    ∧ RefuseReason.addressOutOfRange.code = 3
    ∧ ∀ released : Bool, actLevel released .released = released ∧ actLevel released .secured = !released
end

