-- ==== Sys2Proof/Laws/Codec.lean ====
section
/-! SUPPORT. The small lemmas of the codec's definitions (spec/30_encoding.md, 40_frame_codec.md). -/

namespace Sys2Proof.Machine

@[simp] theorem byteSum_nil : byteSum [] = 0 := rfl

@[simp] theorem byteSum_cons (b : Byte) (s : List Byte) : byteSum (b :: s) = b.toNat + byteSum s := rfl

@[simp] theorem byteSum_append (s t : List Byte) : byteSum (s ++ t) = byteSum s + byteSum t := by
  induction s with
  | nil => simp
  | cons b s ih => simp [ih, Nat.add_assoc]

theorem checksumOf_toNat (s : List Byte) : (checksumOf s).toNat = byteSum s * 255 % 256 := by
  simp [checksumOf]

theorem length_slice (s : List Byte) (a b : Nat) : (slice s a b).length = min b s.length - a := by
  simp [slice]

theorem slice_zero (s : List Byte) (b : Nat) : slice s 0 b = s.take b := by simp [slice]

theorem length_frameBody (cmd addr : Byte) (p : List Byte) : (frameBody cmd addr p).length = p.length + 4 := by
  simp [frameBody]

theorem frameBytes_eq (cmd addr : Byte) (p : List Byte) :
    frameBytes cmd addr p = frameBody cmd addr p ++ [checksumOf (frameBody cmd addr p)] := rfl

theorem length_frameBytes (cmd addr : Byte) (p : List Byte) : (frameBytes cmd addr p).length = p.length + 5 := by
  simp [frameBytes_eq, length_frameBody]

theorem encodePacket_ok {cmd addr : Byte} {p : List Byte} (h : p.length ≤ 26) :
    encodePacket cmd p addr = .ok (packetOf cmd p addr) := by
  simp [encodePacket, Param.maxCmdPayload, Nat.not_lt.mpr h]

theorem encodePacket_long {cmd addr : Byte} {p : List Byte} (h : 26 < p.length) :
    encodePacket cmd p addr = .error .payloadTooLong := by
  simp [encodePacket, Param.maxCmdPayload, h]

/-- The three conditions of 40_frame_codec.md R55. -/
theorem lengthFits_iff (L m : Nat) : lengthFits L m = true ↔ 3 ≤ L ∧ L ≤ 30 ∧ L + 2 ≤ m := by
  simp only [lengthFits, Bool.and_eq_true, decide_eq_true_eq]
  simp only [Param.lenOverhead, Param.maxRspData]
  omega

/-- The domain of VERIFY (40_frame_codec.md R52). -/
theorem verifyDomain_iff (s : List Byte) :
    verifyDomain s = true ↔
      byteAt s 0 = Param.head ∧ 3 ≤ (byteAt s 1).toNat ∧ (byteAt s 1).toNat ≤ 30 ∧ s.length = (byteAt s 1).toNat + 2 := by
  simp only [verifyDomain, Bool.and_eq_true, decide_eq_true_eq, beq_iff_eq, lengthFits_iff]
  simp only [Param.minFrame]
  constructor
  · rintro ⟨⟨⟨_, h0⟩, h3, h30, _⟩, hl⟩
    exact ⟨h0, h3, h30, hl⟩
  · rintro ⟨h0, h3, h30, hl⟩
    exact ⟨⟨⟨by omega, h0⟩, h3, h30, by omega⟩, hl⟩

/-- All that VERIFY can answer (40_frame_codec.md R52). -/
theorem verify_cases (s : List Byte) :
    (verifyDomain s = false ∧ verify s = none) ∨
    (verifyDomain s = true ∧
      verify s = some (checksumOf (s.take (s.length - 1)) == byteAt s (s.length - 1))) := by
  cases h : verifyDomain s
  · exact .inl ⟨rfl, by simp [verify, h]⟩
  · have hd := (verifyDomain_iff s).mp h
    have hn : 4 + ((byteAt s 1).toNat - 3) = s.length - 1 := by omega
    exact .inr ⟨rfl, by simp [verify, h, Param.lenOverhead, slice_zero, hn]⟩

/-- All that DECODE can answer (40_frame_codec.md R53). -/
theorem decodeFrame_cases (strict : Bool) (c : List Byte) :
    (c.length < 5 ∧ decodeFrame strict c = .error .tooShort) ∨
    (5 ≤ c.length ∧ byteAt c 0 ≠ Param.head ∧ decodeFrame strict c = .error .badHeader) ∨
    (5 ≤ c.length ∧ byteAt c 0 = Param.head ∧ lengthFits (byteAt c 1).toNat c.length = false ∧
      decodeFrame strict c = .error .lengthMismatch) ∨
    (5 ≤ c.length ∧ byteAt c 0 = Param.head ∧ lengthFits (byteAt c 1).toNat c.length = true ∧
      (frameAt c (byteAt c 1).toNat).chkOk = false ∧ strict = true ∧
      decodeFrame strict c = .error .checksumMismatch) ∨
    (5 ≤ c.length ∧ byteAt c 0 = Param.head ∧ lengthFits (byteAt c 1).toNat c.length = true ∧
      (strict = true → (frameAt c (byteAt c 1).toNat).chkOk = true) ∧
      decodeFrame strict c = .ok (frameAt c (byteAt c 1).toNat)) := by
  by_cases h1 : c.length < 5
  · exact .inl ⟨h1, by simp [decodeFrame, Param.minFrame, h1]⟩
  have h1' : 5 ≤ c.length := Nat.le_of_not_lt h1
  by_cases h2 : byteAt c 0 = Param.head
  · cases h3 : lengthFits (byteAt c 1).toNat c.length
    · simp [decodeFrame, Param.minFrame, h1, h1', h2, h3]
    · cases strict <;> cases h4 : (frameAt c (byteAt c 1).toNat).chkOk <;>
        simp [decodeFrame, Param.minFrame, h1, h1', h2, h3, h4]
  · simp [decodeFrame, Param.minFrame, h1, h1', h2]

/-- The catalog's payload sizes are at most 3 (30_encoding.md R44). -/
theorem catalogArity_le {c : Byte} {n : Nat} (h : catalogArity c = some n) : n ≤ 3 := by
  unfold catalogArity at h
  split at h <;> cases h <;> omega

end Sys2Proof.Machine
end

