-- ==== Sys2Proof/Laws/History.lean ====
section
/-! SUPPORT. What each reading of the history makes of a history that grows at its end (spec/10_state.md R24). -/

namespace Sys2Proof.Machine

@[simp] theorem pushedOf_append (h g : List Event) : pushedOf (h ++ g) = pushedOf h ++ pushedOf g := by
  induction h with
  | nil => rfl
  | cons e h ih => cases e <;> simp [pushedOf, ih]

@[simp] theorem poppedOf_append (h g : List Event) : poppedOf (h ++ g) = poppedOf h ++ poppedOf g := by
  induction h with
  | nil => rfl
  | cons e h ih => cases e <;> simp [poppedOf, ih]

@[simp] theorem packetsOf_append (h g : List Event) : packetsOf (h ++ g) = packetsOf h ++ packetsOf g := by
  induction h with
  | nil => rfl
  | cons e h ih => cases e <;> simp [packetsOf, ih]

@[simp] theorem framesOf_append (h g : List Event) : framesOf (h ++ g) = framesOf h ++ framesOf g := by
  induction h with
  | nil => rfl
  | cons e h ih => cases e <;> simp [framesOf, ih]

@[simp] theorem samplesOf_append (h g : List Event) : samplesOf (h ++ g) = samplesOf h ++ samplesOf g := by
  induction h with
  | nil => rfl
  | cons e h ih => cases e <;> simp [samplesOf, ih]

@[simp] theorem hasRefusal_append (h g : List Event) : hasRefusal (h ++ g) = (hasRefusal h || hasRefusal g) := by
  induction h with
  | nil => rfl
  | cons e h ih => cases e <;> simp [hasRefusal, ih]

@[simp] theorem lastDrive_append (c : ActCond) (h g : List Event) :
    lastDrive c (h ++ g) = lastDrive (lastDrive c h) g := by
  induction h generalizing c with
  | nil => rfl
  | cons e h ih => cases e <;> simp [lastDrive, ih]

/-- A history that follows the cycle goes on from the phase it ends in. -/
theorem cycleRun_append {p q : CyclePhase} {h : List Event} (hq : cycleRun p h = some q) (g : List Event) :
    cycleRun p (h ++ g) = cycleRun q g := by
  induction h generalizing p with
  | nil => simp_all [cycleRun]
  | cons e h ih =>
    simp only [cycleRun, List.cons_append] at *
    cases he : cycleNext p e with
    | none => simp [he] at hq
    | some r => simp only [he] at hq ⊢; exact ih hq

end Sys2Proof.Machine
end

