-- ==== Sys2Proof/Laws/State.lean ====
section
/-! SUPPORT. One lemma per field per state update of Machine/Ops.lean, each true by `rfl`. -/

namespace Sys2Proof.Machine

section
variable (e : Event) (s : State)

@[simp] theorem record_fifo : (record e s).fifo = s.fifo := rfl
@[simp] theorem record_ls : (record e s).ls = s.ls := rfl
@[simp] theorem record_act : (record e s).act = s.act := rfl
@[simp] theorem record_pollCnt : (record e s).pollCnt = s.pollCnt := rfl
@[simp] theorem record_relockCnt : (record e s).relockCnt = s.relockCnt := rfl
@[simp] theorem record_cur : (record e s).cur = s.cur := rfl
@[simp] theorem record_rxPending : (record e s).rxPending = s.rxPending := rfl
@[simp] theorem record_lastErr : (record e s).lastErr = s.lastErr := rfl
@[simp] theorem record_now : (record e s).now = s.now := rfl
@[simp] theorem record_hist : (record e s).hist = s.hist ++ [e] := rfl
@[simp] theorem record_refused : (record e s).refused = s.refused := rfl
@[simp] theorem record_ovrPin : (record e s).ovrPin = s.ovrPin := rfl
@[simp] theorem record_actPin : (record e s).actPin = s.actPin := rfl
@[simp] theorem record_tx : (record e s).tx = s.tx := rfl
@[simp] theorem record_booted : (record e s).booted = s.booted := rfl
@[simp] theorem record_strict : (record e s).strict = s.strict := rfl
@[simp] theorem record_relLevel : (record e s).relLevel = s.relLevel := rfl
@[simp] theorem record_sched : (record e s).sched = s.sched := rfl

end

section
variable (b : List Byte) (s : State)

@[simp] theorem emitTx_fifo : (emitTx b s).fifo = s.fifo := rfl
@[simp] theorem emitTx_ls : (emitTx b s).ls = s.ls := rfl
@[simp] theorem emitTx_act : (emitTx b s).act = s.act := rfl
@[simp] theorem emitTx_pollCnt : (emitTx b s).pollCnt = s.pollCnt := rfl
@[simp] theorem emitTx_relockCnt : (emitTx b s).relockCnt = s.relockCnt := rfl
@[simp] theorem emitTx_cur : (emitTx b s).cur = s.cur := rfl
@[simp] theorem emitTx_rxPending : (emitTx b s).rxPending = s.rxPending := rfl
@[simp] theorem emitTx_lastErr : (emitTx b s).lastErr = s.lastErr := rfl
@[simp] theorem emitTx_now : (emitTx b s).now = s.now := rfl
@[simp] theorem emitTx_hist : (emitTx b s).hist = s.hist ++ [.tx b] := rfl
@[simp] theorem emitTx_refused : (emitTx b s).refused = s.refused := rfl
@[simp] theorem emitTx_ovrPin : (emitTx b s).ovrPin = s.ovrPin := rfl
@[simp] theorem emitTx_actPin : (emitTx b s).actPin = s.actPin := rfl
@[simp] theorem emitTx_tx : (emitTx b s).tx = s.tx ++ [b] := rfl
@[simp] theorem emitTx_booted : (emitTx b s).booted = s.booted := rfl
@[simp] theorem emitTx_strict : (emitTx b s).strict = s.strict := rfl
@[simp] theorem emitTx_relLevel : (emitTx b s).relLevel = s.relLevel := rfl
@[simp] theorem emitTx_sched : (emitTx b s).sched = s.sched := rfl

end

section
variable (c : ActCond) (s : State)

@[simp] theorem driveAct_fifo : (driveAct c s).fifo = s.fifo := rfl
@[simp] theorem driveAct_ls : (driveAct c s).ls = s.ls := rfl
@[simp] theorem driveAct_act : (driveAct c s).act = c := rfl
@[simp] theorem driveAct_pollCnt : (driveAct c s).pollCnt = s.pollCnt := rfl
@[simp] theorem driveAct_relockCnt : (driveAct c s).relockCnt = s.relockCnt := rfl
@[simp] theorem driveAct_cur : (driveAct c s).cur = s.cur := rfl
@[simp] theorem driveAct_rxPending : (driveAct c s).rxPending = s.rxPending := rfl
@[simp] theorem driveAct_lastErr : (driveAct c s).lastErr = s.lastErr := rfl
@[simp] theorem driveAct_now : (driveAct c s).now = s.now := rfl
@[simp] theorem driveAct_hist : (driveAct c s).hist = s.hist ++ [.drive c] := rfl
@[simp] theorem driveAct_refused : (driveAct c s).refused = s.refused := rfl
@[simp] theorem driveAct_ovrPin : (driveAct c s).ovrPin = s.ovrPin := rfl
@[simp] theorem driveAct_actPin : (driveAct c s).actPin = actLevel s.relLevel c := rfl
@[simp] theorem driveAct_tx : (driveAct c s).tx = s.tx := rfl
@[simp] theorem driveAct_booted : (driveAct c s).booted = s.booted := rfl
@[simp] theorem driveAct_strict : (driveAct c s).strict = s.strict := rfl
@[simp] theorem driveAct_relLevel : (driveAct c s).relLevel = s.relLevel := rfl
@[simp] theorem driveAct_sched : (driveAct c s).sched = s.sched := rfl

end

section
variable (e : TagEvent) (s : State)

@[simp] theorem pushEvent_fifo : (pushEvent e s).fifo = s.fifo ++ [e] := rfl
@[simp] theorem pushEvent_ls : (pushEvent e s).ls = s.ls := rfl
@[simp] theorem pushEvent_act : (pushEvent e s).act = s.act := rfl
@[simp] theorem pushEvent_pollCnt : (pushEvent e s).pollCnt = s.pollCnt := rfl
@[simp] theorem pushEvent_relockCnt : (pushEvent e s).relockCnt = s.relockCnt := rfl
@[simp] theorem pushEvent_cur : (pushEvent e s).cur = s.cur := rfl
@[simp] theorem pushEvent_rxPending : (pushEvent e s).rxPending = s.rxPending := rfl
@[simp] theorem pushEvent_lastErr : (pushEvent e s).lastErr = s.lastErr := rfl
@[simp] theorem pushEvent_now : (pushEvent e s).now = s.now := rfl
@[simp] theorem pushEvent_hist : (pushEvent e s).hist = s.hist ++ [.pushed e] := rfl
@[simp] theorem pushEvent_refused : (pushEvent e s).refused = s.refused := rfl
@[simp] theorem pushEvent_ovrPin : (pushEvent e s).ovrPin = s.ovrPin := rfl
@[simp] theorem pushEvent_actPin : (pushEvent e s).actPin = s.actPin := rfl
@[simp] theorem pushEvent_tx : (pushEvent e s).tx = s.tx := rfl
@[simp] theorem pushEvent_booted : (pushEvent e s).booted = s.booted := rfl
@[simp] theorem pushEvent_strict : (pushEvent e s).strict = s.strict := rfl
@[simp] theorem pushEvent_relLevel : (pushEvent e s).relLevel = s.relLevel := rfl
@[simp] theorem pushEvent_sched : (pushEvent e s).sched = s.sched := rfl

end

section
variable (k : FrameError) (s : State)

@[simp] theorem recordError_fifo : (recordError k s).fifo = s.fifo := rfl
@[simp] theorem recordError_ls : (recordError k s).ls = s.ls := rfl
@[simp] theorem recordError_act : (recordError k s).act = s.act := rfl
@[simp] theorem recordError_pollCnt : (recordError k s).pollCnt = s.pollCnt := rfl
@[simp] theorem recordError_relockCnt : (recordError k s).relockCnt = s.relockCnt := rfl
@[simp] theorem recordError_cur : (recordError k s).cur = s.cur := rfl
@[simp] theorem recordError_rxPending : (recordError k s).rxPending = s.rxPending := rfl
@[simp] theorem recordError_lastErr : (recordError k s).lastErr = some k := rfl
@[simp] theorem recordError_now : (recordError k s).now = s.now := rfl
@[simp] theorem recordError_hist : (recordError k s).hist = s.hist ++ [.rxError k] := rfl
@[simp] theorem recordError_refused : (recordError k s).refused = s.refused := rfl
@[simp] theorem recordError_ovrPin : (recordError k s).ovrPin = s.ovrPin := rfl
@[simp] theorem recordError_actPin : (recordError k s).actPin = s.actPin := rfl
@[simp] theorem recordError_tx : (recordError k s).tx = s.tx := rfl
@[simp] theorem recordError_booted : (recordError k s).booted = s.booted := rfl
@[simp] theorem recordError_strict : (recordError k s).strict = s.strict := rfl
@[simp] theorem recordError_relLevel : (recordError k s).relLevel = s.relLevel := rfl
@[simp] theorem recordError_sched : (recordError k s).sched = s.sched := rfl

end

section
variable (f : ResponseFrame) (s : State)

@[simp] theorem recordFrame_fifo : (recordFrame f s).fifo = s.fifo := rfl
@[simp] theorem recordFrame_ls : (recordFrame f s).ls = s.ls := rfl
@[simp] theorem recordFrame_act : (recordFrame f s).act = s.act := rfl
@[simp] theorem recordFrame_pollCnt : (recordFrame f s).pollCnt = s.pollCnt := rfl
@[simp] theorem recordFrame_relockCnt : (recordFrame f s).relockCnt = s.relockCnt := rfl
@[simp] theorem recordFrame_cur : (recordFrame f s).cur = s.cur := rfl
@[simp] theorem recordFrame_rxPending : (recordFrame f s).rxPending = s.rxPending := rfl
@[simp] theorem recordFrame_lastErr : (recordFrame f s).lastErr = none := rfl
@[simp] theorem recordFrame_now : (recordFrame f s).now = s.now := rfl
@[simp] theorem recordFrame_hist : (recordFrame f s).hist = s.hist ++ [.rxFrame f] := rfl
@[simp] theorem recordFrame_refused : (recordFrame f s).refused = s.refused := rfl
@[simp] theorem recordFrame_ovrPin : (recordFrame f s).ovrPin = s.ovrPin := rfl
@[simp] theorem recordFrame_actPin : (recordFrame f s).actPin = s.actPin := rfl
@[simp] theorem recordFrame_tx : (recordFrame f s).tx = s.tx := rfl
@[simp] theorem recordFrame_booted : (recordFrame f s).booted = s.booted := rfl
@[simp] theorem recordFrame_strict : (recordFrame f s).strict = s.strict := rfl
@[simp] theorem recordFrame_relLevel : (recordFrame f s).relLevel = s.relLevel := rfl
@[simp] theorem recordFrame_sched : (recordFrame f s).sched = s.sched := rfl

end

section
variable (r : RefuseReason) (s : State)

@[simp] theorem refuseRequest_fifo : (refuseRequest r s).fifo = s.fifo := rfl
@[simp] theorem refuseRequest_ls : (refuseRequest r s).ls = s.ls := rfl
@[simp] theorem refuseRequest_act : (refuseRequest r s).act = s.act := rfl
@[simp] theorem refuseRequest_pollCnt : (refuseRequest r s).pollCnt = s.pollCnt := rfl
@[simp] theorem refuseRequest_relockCnt : (refuseRequest r s).relockCnt = s.relockCnt := rfl
@[simp] theorem refuseRequest_cur : (refuseRequest r s).cur = s.cur := rfl
@[simp] theorem refuseRequest_rxPending : (refuseRequest r s).rxPending = s.rxPending := rfl
@[simp] theorem refuseRequest_lastErr : (refuseRequest r s).lastErr = s.lastErr := rfl
@[simp] theorem refuseRequest_now : (refuseRequest r s).now = s.now := rfl
@[simp] theorem refuseRequest_hist : (refuseRequest r s).hist = s.hist ++ [.refused r] := rfl
@[simp] theorem refuseRequest_refused : (refuseRequest r s).refused = true := rfl
@[simp] theorem refuseRequest_ovrPin : (refuseRequest r s).ovrPin = s.ovrPin := rfl
@[simp] theorem refuseRequest_actPin : (refuseRequest r s).actPin = s.actPin := rfl
@[simp] theorem refuseRequest_tx : (refuseRequest r s).tx = s.tx := rfl
@[simp] theorem refuseRequest_booted : (refuseRequest r s).booted = s.booted := rfl
@[simp] theorem refuseRequest_strict : (refuseRequest r s).strict = s.strict := rfl
@[simp] theorem refuseRequest_relLevel : (refuseRequest r s).relLevel = s.relLevel := rfl
@[simp] theorem refuseRequest_sched : (refuseRequest r s).sched = s.sched := rfl

end

end Sys2Proof.Machine
end

