-- ==== Sys2Proof/Laws/Ops.lean ====
section
/-! SUPPORT. For each shared operation and each step, one lemma that says everything it can do. -/

namespace Sys2Proof.Machine

open Host

/-- All that a built or refused request can do to the state (40_frame_codec.md R60, 60_exceptions.md R104). -/
theorem sendBuilt_cases (k : Except RefuseReason CommandPacket) (s : State) :
    (∃ r, k = .error r ∧ sendBuilt k s = refuseRequest r s) ∨
    (∃ p, k = .ok p ∧ sendBuilt k s = emitTx p.toBytes s) := by
  cases k with
  | error r => exact .inl ⟨r, rfl, rfl⟩
  | ok p => exact .inr ⟨p, rfl, rfl⟩

/-- SEND when RD may step. -/
theorem send_ready {s : State} (hb : s.booted = true) (hp : s.rxPending = none)
    (k : Except RefuseReason CommandPacket) : send k s = .next (sendBuilt k s) := by
  simp [send, held, hb, hp]

/-- SEND while RD is held: nothing happens (42_inventory_decoder.md R85). -/
theorem send_held {s : State} (hb : s.booted = true) {e : TagEvent} (hp : s.rxPending = some e)
    (k : Except RefuseReason CommandPacket) : send k s = .next s := by
  simp [send, held, hb, hp]

/-- All that SEND can do. -/
theorem send_cases {k : Except RefuseReason CommandPacket} {s t : State} (h : send k s = .next t) :
    s.booted = true ∧ ((s.rxPending ≠ none ∧ t = s) ∨ (s.rxPending = none ∧ t = sendBuilt k s)) := by
  cases hb : s.booted
  · simp [send, hb] at h
  · cases hp : s.rxPending
    · rw [send_ready hb hp] at h
      exact ⟨rfl, .inr ⟨rfl, by simpa using h.symm⟩⟩
    · rw [send_held hb hp] at h
      exact ⟨rfl, .inl ⟨by simp, by simpa using h.symm⟩⟩

/-- What a request builds. -/
def requestPacket : Instr → Except RefuseReason CommandPacket
  | .reset a p => catalogPacket 0x70 0 p a
  | .getFirmwareVersion a p => catalogPacket 0x72 0 p a
  | .setBaudRate a p => catalogPacket 0x71 1 p a
  | .setFrequencyRegion a p => catalogPacket 0x78 3 p a
  | .getFrequencyRegion a p => catalogPacket 0x79 0 p a
  | .setWorkingAntenna a p => catalogPacket 0x74 1 p a
  | .getWorkingAntenna a p => catalogPacket 0x75 0 p a
  | .setOutputPower a p => catalogPacket 0x76 1 p a
  | .getOutputPower a p => catalogPacket 0x77 0 p a
  | .setDrmMode a p => catalogPacket 0x7C 1 p a
  | .getDrmMode a p => catalogPacket 0x7D 0 p a
  | .setAntDetectMode a p => catalogPacket 0x62 1 p a
  | .getAntDetectMode a p => catalogPacket 0x63 0 p a
  | .setReaderAddress a p => readerAddressPacket p a
  | .startRealtimeInventory a p => catalogPacket 0x89 1 p a
  | .startNamedInventory a p => catalogPacket 0x80 1 p a
  | .encode c a p => encodePacket c p a

/-- Every instruction is SEND of what it builds (41_command_catalog.md R61). -/
theorem exec_eq_send (i : Instr) (s : State) : exec i s = send (requestPacket i) s := by
  cases i <;> rfl

/-- All that an instruction can do: nothing while RD is held, a refusal, or one packet. -/
theorem exec_cases {i : Instr} {s t : State} (h : exec i s = .next t) :
    s.booted = true ∧ ((s.rxPending ≠ none ∧ t = s) ∨ (s.rxPending = none ∧
      ((∃ r, requestPacket i = .error r ∧ t = refuseRequest r s) ∨
       (∃ p, requestPacket i = .ok p ∧ t = emitTx p.toBytes s)))) := by
  rw [exec_eq_send] at h
  obtain ⟨hb, h | ⟨hp, rfl⟩⟩ := send_cases h
  · exact ⟨hb, .inl h⟩
  · exact ⟨hb, .inr ⟨hp, sendBuilt_cases _ _⟩⟩

theorem fifoHasRoom_iff (s : State) : fifoHasRoom s = true ↔ s.fifo.length < 10 := decide_eq_true_iff

theorem fifoHasRoom_eq_false_iff (s : State) : fifoHasRoom s = false ↔ 10 ≤ s.fifo.length := by
  rw [← Bool.not_eq_true, fifoHasRoom_iff, Nat.not_lt]

theorem pushRetryEnabled_iff (s : State) :
    pushRetryEnabled s = true ↔ (∃ e, s.rxPending = some e) ∧ s.fifo.length < 10 := by
  simp [pushRetryEnabled, fifoHasRoom_iff, Option.isSome_iff_exists]

theorem popEnabled_iff (s : State) : popEnabled s = true ↔ s.ls = .idle ∧ s.fifo ≠ [] := by
  cases h : s.fifo <;> simp [popEnabled, h]

theorem engageEnabled_iff (s : State) : engageEnabled s = true ↔ s.ls = .engaged := by simp [engageEnabled]

theorem sampleEnabled_iff (s : State) : sampleEnabled s = true ↔ s.ls = .waitingForOverride ∧ s.pollCnt = 0 := by
  simp [sampleEnabled]

theorem relockDoneEnabled_iff (s : State) : relockDoneEnabled s = true ↔ s.ls = .relocking ∧ s.relockCnt = 0 := by
  simp [relockDoneEnabled]

/-- All that offering an event can do (42_inventory_decoder.md R82). -/
theorem offerEvent_cases (e : TagEvent) (s : State) :
    (s.fifo.length < 10 ∧ offerEvent e s = pushEvent e s) ∨
    (10 ≤ s.fifo.length ∧ offerEvent e s = { s with rxPending := some e }) := by
  unfold offerEvent fifoHasRoom
  by_cases h : s.fifo.length < 10 <;> simp [Param.fifoDepth, h]
  omega

/-- All that RX_CHUNK can do (42_inventory_decoder.md R82). -/
theorem rxChunk_cases (c : List Byte) (s : State) :
    (c = [] ∧ rxChunk c s = record .rxEmpty s) ∨
    (c ≠ [] ∧ ∃ k, decodeFrame s.strict c = .error k ∧ rxChunk c s = recordError k s) ∨
    (c ≠ [] ∧ ∃ f, decodeFrame s.strict c = .ok f ∧ extractTag f = none ∧ rxChunk c s = recordFrame f s) ∨
    (c ≠ [] ∧ ∃ f e, decodeFrame s.strict c = .ok f ∧ extractTag f = some e ∧
      rxChunk c s = offerEvent e (recordFrame f s)) := by
  by_cases hc : c = []
  · simp [hc, rxChunk]
  · simp only [hc, false_and, ne_eq, not_false_eq_true, true_and, false_or, rxChunk, List.length_eq_zero_iff, if_false]
    cases hd : decodeFrame s.strict c with
    | error k => simp
    | ok f => cases he : extractTag f <;> simp [acceptFrame, he]

/-- All that PUSH_RETRY can do (42_inventory_decoder.md R84). -/
theorem pushRetry_cases (s : State) :
    (pushRetryEnabled s = false ∧ pushRetry s = s) ∨
    (∃ e, s.rxPending = some e ∧ s.fifo.length < 10 ∧ pushRetryEnabled s = true ∧
      pushRetry s = { pushEvent e s with rxPending := none }) := by
  unfold pushRetry pushRetryEnabled fifoHasRoom
  cases hp : s.rxPending with
  | none => simp
  | some e => by_cases h : s.fifo.length < 10 <;> simp [Param.fifoDepth, h]

/-- All that POP can do (43_lock_controller.md R88). -/
theorem pop_cases (s : State) :
    (popEnabled s = false ∧ pop s = s) ∨
    (∃ e rest, s.ls = .idle ∧ s.fifo = e :: rest ∧ popEnabled s = true ∧
      pop s = { s with
        fifo := rest, cur := some e, act := .released, actPin := actLevel s.relLevel .released, ls := .engaged,
        hist := s.hist ++ [.popped e] ++ [.drive .released] }) := by
  unfold pop popEnabled
  cases hl : s.ls <;> cases hf : s.fifo <;> simp [driveAct, record]

/-- All that ENGAGE can do (43_lock_controller.md R89). -/
theorem engage_cases (s : State) :
    (engageEnabled s = false ∧ engage s = s) ∨
    (s.ls = .engaged ∧ engageEnabled s = true ∧ engage s = { s with ls := .waitingForOverride, pollCnt := 0 }) := by
  unfold engage engageEnabled
  cases hl : s.ls <;> simp

/-- All that SAMPLE can do (43_lock_controller.md R90). -/
theorem sample_cases (s : State) :
    (sampleEnabled s = false ∧ sample s = s) ∨
    (s.ls = .waitingForOverride ∧ s.pollCnt = 0 ∧ sampleEnabled s = true ∧ s.ovrPin = false ∧
      sample s = { s with hist := s.hist ++ [.sample false], ls := .relocking, relockCnt := 4000 }) ∨
    (s.ls = .waitingForOverride ∧ s.pollCnt = 0 ∧ sampleEnabled s = true ∧ s.ovrPin = true ∧
      sample s = { s with hist := s.hist ++ [.sample true], pollCnt := 100 }) := by
  unfold sample
  by_cases h : sampleEnabled s = true
  · have h' : s.ls = .waitingForOverride ∧ s.pollCnt = 0 := by simpa [sampleEnabled] using h
    cases hv : s.ovrPin <;>
      simp [h, h', getInput, afterSample, record, hv, Param.ovrPressedLevel, Param.relockDelayMs, Param.pollPeriodMs]
  · simp [h]

/-- All that RELOCK_DONE can do (43_lock_controller.md R92). -/
theorem relockDone_cases (s : State) :
    (relockDoneEnabled s = false ∧ relockDone s = s) ∨
    (s.ls = .relocking ∧ s.relockCnt = 0 ∧ relockDoneEnabled s = true ∧
      relockDone s = { s with
        hist := s.hist ++ [.drive .secured], act := .secured, actPin := actLevel s.relLevel .secured, cur := none,
        ls := .idle }) := by
  unfold relockDone
  by_cases h : relockDoneEnabled s = true
  · have h' : s.ls = .relocking ∧ s.relockCnt = 0 := by simpa [relockDoneEnabled] using h
    simp [h, h', driveAct, record]
  · simp [h]

/-- No step of LC is enabled, by lock state (43_lock_controller.md R94). -/
theorem lcEnabled_eq_false_iff (s : State) :
    lcEnabled s = false ↔
      (s.ls = .idle ∧ s.fifo = []) ∨ (s.ls = .waitingForOverride ∧ s.pollCnt ≠ 0) ∨
      (s.ls = .relocking ∧ s.relockCnt ≠ 0) := by
  unfold lcEnabled popEnabled engageEnabled sampleEnabled relockDoneEnabled
  cases s.ls <;> simp

/-- All that TICK can do (43_lock_controller.md R93): it counts down the counter of the present state, which is not 0. -/
theorem tick_cases (s : State) :
    (lcEnabled s = true ∧ tick s = s) ∨
    (lcEnabled s = false ∧ s.ls = .idle ∧ s.fifo = [] ∧ tick s = { s with now := s.now + 1 }) ∨
    (lcEnabled s = false ∧ s.ls = .waitingForOverride ∧ 0 < s.pollCnt ∧
      tick s = { s with now := s.now + 1, pollCnt := s.pollCnt - 1 }) ∨
    (lcEnabled s = false ∧ s.ls = .relocking ∧ 0 < s.relockCnt ∧
      tick s = { s with now := s.now + 1, relockCnt := s.relockCnt - 1 }) := by
  by_cases h : lcEnabled s = true
  · simp [tick, h]
  · have h0 : lcEnabled s = false := by simpa using h
    have hc := (lcEnabled_eq_false_iff s).mp h0
    rcases hc with ⟨hl, hf⟩ | ⟨hl, hp⟩ | ⟨hl, hp⟩
    · simp [tick, h0, hl, hf, Param.tickMs]
    · have : 0 < s.pollCnt := Nat.pos_of_ne_zero hp
      simp [tick, h0, hl, this, Param.tickMs]
    · have : 0 < s.relockCnt := Nat.pos_of_ne_zero hp
      simp [tick, h0, hl, this, Param.tickMs]

/-- A step other than the boot configuration has a meaning only after it (70_reset_and_hazards.md R118). -/
theorem take_booted {a : Action} {s : State} (h : s.booted = true) : take a s = perform a s := by
  simp [take, h]

/-- Before boot, a step is the boot configuration or a fault. -/
theorem take_unbooted {a : Action} {s : State} (h : s.booted = false) :
    take a s = if a = .boot then .next { s with booted := true } else .fault .stepBeforeBoot := by
  by_cases ha : a = .boot <;> simp [take, perform, h, ha]

/-- All that an enabled or a disabled step can do, by agent and step (60_exceptions.md R110). -/
theorem take_cases {a : Action} {s t : State} (h : take a s = .next t) :
    (a = .boot ∧ t = { s with booted := true }) ∨
    (s.booted = true ∧
      ((∃ r i, a = .send r ∧ fetch r = .ok i ∧ exec i s = .next t) ∨
       (∃ c, a = .rxChunk c ∧ t = if held s then s else rxChunk c s) ∨
       (a = .readFails ∧ t = s) ∨ (a = .pushRetry ∧ t = pushRetry s) ∨ (a = .pop ∧ t = pop s) ∨
       (a = .engage ∧ t = engage s) ∨ (a = .sample ∧ t = sample s) ∨ (a = .relockDone ∧ t = relockDone s) ∨
       (a = .tick ∧ t = tick s) ∨ (∃ v, a = .pin v ∧ t = { s with ovrPin := v }))) := by
  by_cases hb : s.booted = true
  · rw [take_booted hb] at h
    cases a with
    | boot => exact .inl ⟨rfl, by simpa [perform] using h.symm⟩
    | send r =>
      refine .inr ⟨hb, .inl ?_⟩
      simp only [perform, sendRequest] at h
      cases hf : fetch r with
      | ok i => exact ⟨r, i, rfl, hf, by simpa [hf] using h⟩
      | error e => simp [hf] at h
    | _ => refine .inr ⟨hb, ?_⟩; simp_all [perform]
  · have hb' : s.booted = false := by simpa using hb
    rw [take_unbooted hb'] at h
    split at h
    · exact .inl ⟨by assumption, by simpa using h.symm⟩
    · cases h

/-- What the next step is: the head of the schedule, or the default step. -/
theorem selectAction_cases (s : State) :
    (s.sched = [] ∧ selectAction s = (defaultAction s, s)) ∨
    (∃ a rest, s.sched = a :: rest ∧ (enabled a s = true ∨ s.booted = false) ∧
      selectAction s = (a, { s with sched := rest })) ∨
    (∃ a rest, s.sched = a :: rest ∧ enabled a s = false ∧ s.booted = true ∧
      selectAction s = (defaultAction s, s)) := by
  unfold selectAction
  cases hs : s.sched with
  | nil => simp
  | cons a rest => cases h1 : enabled a s <;> cases h2 : s.booted <;> simp [h1]

/-- The default step is always enabled. -/
theorem defaultAction_enabled (s : State) : enabled (defaultAction s) s = true := by
  unfold defaultAction
  cases hb : s.booted
  · simp [enabled, hb]
  · simp only [Bool.true_eq_false, if_false]
    split <;> [simp_all [enabled]; split <;> [simp_all [enabled]; split <;>
      [simp_all [enabled]; split <;> [simp_all [enabled]; split <;> simp_all [enabled, lcEnabled]]]]]

end Sys2Proof.Machine
end

