-- ==== Sys2Proof/Laws/PerInstr.lean ====
section
/-! SUPPORT. Facts about each instruction as syntax, one lemma per constructor. -/

namespace Sys2Proof.Laws

open Sys2Proof.Machine

/-- A well-formed request has at most 26 payload bytes, and its frame is the payload and 5 bytes more
(spec/30_encoding.md R38, R40). -/
def FrameSize.Statement (i : Instr) : Prop :=
  i.wellFormed = true → i.payload.length ≤ 26 ∧ (encode i).length = i.payload.length + 5

/-- The code and payload of a well-formed canonical request are classified as that request (spec/30_encoding.md R44,
R45). -/
def ClassifiesBack.Statement (i : Instr) : Prop :=
  i.wellFormed = true → i.canonical = true → classify i.code i.addr i.payload = i

theorem FrameSize.reset (addr : Byte) (p : List Byte) : FrameSize.Statement (.reset addr p) := by
  intro h
  have hp : p.length ≤ 26 := by simp [Instr.wellFormed] at h; simp [h]
  exact ⟨hp, length_frameBytes _ _ _⟩

theorem ClassifiesBack.reset (addr : Byte) (p : List Byte) : ClassifiesBack.Statement (.reset addr p) := by
  intro h _
  simp [Instr.wellFormed] at h
  simp [classify, catalogArity, Instr.code, Instr.addr, Instr.payload, h]

theorem FrameSize.getFirmwareVersion (addr : Byte) (p : List Byte) : FrameSize.Statement (.getFirmwareVersion addr p) := by
  intro h
  have hp : p.length ≤ 26 := by simp [Instr.wellFormed] at h; simp [h]
  exact ⟨hp, length_frameBytes _ _ _⟩

theorem ClassifiesBack.getFirmwareVersion (addr : Byte) (p : List Byte) : ClassifiesBack.Statement (.getFirmwareVersion addr p) := by
  intro h _
  simp [Instr.wellFormed] at h
  simp [classify, catalogArity, Instr.code, Instr.addr, Instr.payload, h]

theorem FrameSize.setBaudRate (addr : Byte) (p : List Byte) : FrameSize.Statement (.setBaudRate addr p) := by
  intro h
  have hp : p.length ≤ 26 := by simp [Instr.wellFormed] at h; simp [h]
  exact ⟨hp, length_frameBytes _ _ _⟩

theorem ClassifiesBack.setBaudRate (addr : Byte) (p : List Byte) : ClassifiesBack.Statement (.setBaudRate addr p) := by
  intro h _
  simp [Instr.wellFormed] at h
  simp [classify, catalogArity, Instr.code, Instr.addr, Instr.payload, h]

theorem FrameSize.setFrequencyRegion (addr : Byte) (p : List Byte) : FrameSize.Statement (.setFrequencyRegion addr p) := by
  intro h
  have hp : p.length ≤ 26 := by simp [Instr.wellFormed] at h; simp [h]
  exact ⟨hp, length_frameBytes _ _ _⟩

theorem ClassifiesBack.setFrequencyRegion (addr : Byte) (p : List Byte) : ClassifiesBack.Statement (.setFrequencyRegion addr p) := by
  intro h _
  simp [Instr.wellFormed] at h
  simp [classify, catalogArity, Instr.code, Instr.addr, Instr.payload, h]

theorem FrameSize.getFrequencyRegion (addr : Byte) (p : List Byte) : FrameSize.Statement (.getFrequencyRegion addr p) := by
  intro h
  have hp : p.length ≤ 26 := by simp [Instr.wellFormed] at h; simp [h]
  exact ⟨hp, length_frameBytes _ _ _⟩

theorem ClassifiesBack.getFrequencyRegion (addr : Byte) (p : List Byte) : ClassifiesBack.Statement (.getFrequencyRegion addr p) := by
  intro h _
  simp [Instr.wellFormed] at h
  simp [classify, catalogArity, Instr.code, Instr.addr, Instr.payload, h]

theorem FrameSize.setWorkingAntenna (addr : Byte) (p : List Byte) : FrameSize.Statement (.setWorkingAntenna addr p) := by
  intro h
  have hp : p.length ≤ 26 := by simp [Instr.wellFormed] at h; simp [h]
  exact ⟨hp, length_frameBytes _ _ _⟩

theorem ClassifiesBack.setWorkingAntenna (addr : Byte) (p : List Byte) : ClassifiesBack.Statement (.setWorkingAntenna addr p) := by
  intro h _
  simp [Instr.wellFormed] at h
  simp [classify, catalogArity, Instr.code, Instr.addr, Instr.payload, h]

theorem FrameSize.getWorkingAntenna (addr : Byte) (p : List Byte) : FrameSize.Statement (.getWorkingAntenna addr p) := by
  intro h
  have hp : p.length ≤ 26 := by simp [Instr.wellFormed] at h; simp [h]
  exact ⟨hp, length_frameBytes _ _ _⟩

theorem ClassifiesBack.getWorkingAntenna (addr : Byte) (p : List Byte) : ClassifiesBack.Statement (.getWorkingAntenna addr p) := by
  intro h _
  simp [Instr.wellFormed] at h
  simp [classify, catalogArity, Instr.code, Instr.addr, Instr.payload, h]

theorem FrameSize.setOutputPower (addr : Byte) (p : List Byte) : FrameSize.Statement (.setOutputPower addr p) := by
  intro h
  have hp : p.length ≤ 26 := by simp [Instr.wellFormed] at h; simp [h]
  exact ⟨hp, length_frameBytes _ _ _⟩

theorem ClassifiesBack.setOutputPower (addr : Byte) (p : List Byte) : ClassifiesBack.Statement (.setOutputPower addr p) := by
  intro h _
  simp [Instr.wellFormed] at h
  simp [classify, catalogArity, Instr.code, Instr.addr, Instr.payload, h]

theorem FrameSize.getOutputPower (addr : Byte) (p : List Byte) : FrameSize.Statement (.getOutputPower addr p) := by
  intro h
  have hp : p.length ≤ 26 := by simp [Instr.wellFormed] at h; simp [h]
  exact ⟨hp, length_frameBytes _ _ _⟩

theorem ClassifiesBack.getOutputPower (addr : Byte) (p : List Byte) : ClassifiesBack.Statement (.getOutputPower addr p) := by
  intro h _
  simp [Instr.wellFormed] at h
  simp [classify, catalogArity, Instr.code, Instr.addr, Instr.payload, h]

theorem FrameSize.setDrmMode (addr : Byte) (p : List Byte) : FrameSize.Statement (.setDrmMode addr p) := by
  intro h
  have hp : p.length ≤ 26 := by simp [Instr.wellFormed] at h; simp [h]
  exact ⟨hp, length_frameBytes _ _ _⟩

theorem ClassifiesBack.setDrmMode (addr : Byte) (p : List Byte) : ClassifiesBack.Statement (.setDrmMode addr p) := by
  intro h _
  simp [Instr.wellFormed] at h
  simp [classify, catalogArity, Instr.code, Instr.addr, Instr.payload, h]

theorem FrameSize.getDrmMode (addr : Byte) (p : List Byte) : FrameSize.Statement (.getDrmMode addr p) := by
  intro h
  have hp : p.length ≤ 26 := by simp [Instr.wellFormed] at h; simp [h]
  exact ⟨hp, length_frameBytes _ _ _⟩

theorem ClassifiesBack.getDrmMode (addr : Byte) (p : List Byte) : ClassifiesBack.Statement (.getDrmMode addr p) := by
  intro h _
  simp [Instr.wellFormed] at h
  simp [classify, catalogArity, Instr.code, Instr.addr, Instr.payload, h]

theorem FrameSize.setAntDetectMode (addr : Byte) (p : List Byte) : FrameSize.Statement (.setAntDetectMode addr p) := by
  intro h
  have hp : p.length ≤ 26 := by simp [Instr.wellFormed] at h; simp [h]
  exact ⟨hp, length_frameBytes _ _ _⟩

theorem ClassifiesBack.setAntDetectMode (addr : Byte) (p : List Byte) : ClassifiesBack.Statement (.setAntDetectMode addr p) := by
  intro h _
  simp [Instr.wellFormed] at h
  simp [classify, catalogArity, Instr.code, Instr.addr, Instr.payload, h]

theorem FrameSize.getAntDetectMode (addr : Byte) (p : List Byte) : FrameSize.Statement (.getAntDetectMode addr p) := by
  intro h
  have hp : p.length ≤ 26 := by simp [Instr.wellFormed] at h; simp [h]
  exact ⟨hp, length_frameBytes _ _ _⟩

theorem ClassifiesBack.getAntDetectMode (addr : Byte) (p : List Byte) : ClassifiesBack.Statement (.getAntDetectMode addr p) := by
  intro h _
  simp [Instr.wellFormed] at h
  simp [classify, catalogArity, Instr.code, Instr.addr, Instr.payload, h]

theorem FrameSize.setReaderAddress (addr : Byte) (p : List Byte) : FrameSize.Statement (.setReaderAddress addr p) := by
  intro h
  have hp : p.length ≤ 26 := by simp [Instr.wellFormed] at h; simp [h]
  exact ⟨hp, length_frameBytes _ _ _⟩

theorem ClassifiesBack.setReaderAddress (addr : Byte) (p : List Byte) : ClassifiesBack.Statement (.setReaderAddress addr p) := by
  intro h _
  simp [Instr.wellFormed] at h
  simp [classify, catalogArity, Instr.code, Instr.addr, Instr.payload, h]

theorem FrameSize.startRealtimeInventory (addr : Byte) (p : List Byte) : FrameSize.Statement (.startRealtimeInventory addr p) := by
  intro h
  have hp : p.length ≤ 26 := by simp [Instr.wellFormed] at h; simp [h]
  exact ⟨hp, length_frameBytes _ _ _⟩

theorem ClassifiesBack.startRealtimeInventory (addr : Byte) (p : List Byte) : ClassifiesBack.Statement (.startRealtimeInventory addr p) := by
  intro h _
  simp [Instr.wellFormed] at h
  simp [classify, catalogArity, Instr.code, Instr.addr, Instr.payload, h]

theorem FrameSize.startNamedInventory (addr : Byte) (p : List Byte) : FrameSize.Statement (.startNamedInventory addr p) := by
  intro h
  have hp : p.length ≤ 26 := by simp [Instr.wellFormed] at h; simp [h]
  exact ⟨hp, length_frameBytes _ _ _⟩

theorem ClassifiesBack.startNamedInventory (addr : Byte) (p : List Byte) : ClassifiesBack.Statement (.startNamedInventory addr p) := by
  intro h _
  simp [Instr.wellFormed] at h
  simp [classify, catalogArity, Instr.code, Instr.addr, Instr.payload, h]

theorem FrameSize.encode (cmd addr : Byte) (p : List Byte) : FrameSize.Statement (.encode cmd addr p) := by
  intro h
  exact ⟨of_decide_eq_true h, length_frameBytes _ _ _⟩

theorem ClassifiesBack.encode (cmd addr : Byte) (p : List Byte) : ClassifiesBack.Statement (.encode cmd addr p) := by
  intro _ hc
  have : catalogArity cmd ≠ some p.length := by simpa [Instr.canonical] using hc
  simp [classify, Instr.code, Instr.addr, Instr.payload, this]

end Sys2Proof.Laws
end

