-- ==== Sys2Proof/Tests/Slice0.lean ====
section
/-! SUPPORT. Tests of the model against the worked vectors of spec/95_test_vectors.md, and one witness for every statement
that has hypotheses. Every expected value is the spec's, or worked out by hand from its rules. -/

namespace Sys2Proof.Tests

open Sys2Proof.Machine Host

/-! ## Small states -/

/-- Reset values with boot done, the pin not pressed, and the released level high. -/
def idle0 : State := { State.reset with booted := true, ovrPin := true, actPin := false, relLevel := true }

/-- The event of tag frame `Tk` of 95_test_vectors.md. -/
def tagEvent (k : Byte) : TagEvent :=
  { ant := 0x01, pc := [0x30, 0x00]
    epc := [0xE2, 0x00, 0x00, 0x17, 0x22, 0x0B, 0x01, 0x23, 0x45, 0x67, 0x89, k], trailing := [] }

/-- The wire bytes of tag frame `T` (95_test_vectors.md), with the checksum byte as an argument. -/
def tagFrame (c : Byte) : List Byte :=
  [0xA0, 0x12, 0x01, 0x89, 0x01, 0x30, 0x00, 0xE2, 0x00, 0x00, 0x17, 0x22, 0x0B, 0x01, 0x23, 0x45, 0x67, 0x89, 0xAB, c]

/-- The frame of `T`, as 95_test_vectors.md L2.4 gives it. -/
def tagDecoded : ResponseFrame :=
  { head := 0xA0, length := 0x12, address := 0x01, command := 0x89
    data := [0x01, 0x30, 0x00, 0xE2, 0x00, 0x00, 0x17, 0x22, 0x0B, 0x01, 0x23, 0x45, 0x67, 0x89, 0xAB]
    checksum := 0x69, chkCalc := 0x69, chkOk := true }

/-- The frame of `A0 03 01 70 EC` (95_test_vectors.md D-1). -/
def shortDecoded : ResponseFrame :=
  { head := 0xA0, length := 0x03, address := 0x01, command := 0x70, data := [], checksum := 0xEC, chkCalc := 0xEC
    chkOk := true }

/-- `n` events in the FIFO. -/
def withEvents (n : Nat) : State := { idle0 with fifo := List.replicate n (tagEvent 0xAB) }

/-- A full FIFO, with one event pending. -/
def stalled : State := { withEvents 10 with rxPending := some (tagEvent 0xAB) }

/-- Waiting for the override, the next sample in `c` ms, the pin at `v`. -/
def waiting (c : Nat) (v : Bool) : State :=
  { idle0 with
    ls := .waitingForOverride, act := .released, actPin := true, cur := some (tagEvent 0xAB), pollCnt := c, ovrPin := v }

/-- Re-locking, with `c` ms left. -/
def relocking (c : Nat) : State :=
  { idle0 with ls := .relocking, act := .released, actPin := true, cur := some (tagEvent 0xAB), relockCnt := c }

/-! ## Well-formedness: each check refuses an ill-formed request -/

theorem test_wf_reset : (Instr.reset 0xFF [0x00]).wellFormed = false := by decide
theorem test_wf_getFirmwareVersion : (Instr.getFirmwareVersion 0xFF [0x00]).wellFormed = false := by decide
theorem test_wf_setBaudRate : (Instr.setBaudRate 0xFF []).wellFormed = false := by decide
theorem test_wf_setFrequencyRegion : (Instr.setFrequencyRegion 0xFF [0x01, 0x00]).wellFormed = false := by decide
theorem test_wf_getFrequencyRegion : (Instr.getFrequencyRegion 0xFF [0x00]).wellFormed = false := by decide
theorem test_wf_setWorkingAntenna : (Instr.setWorkingAntenna 0xFF [0x00, 0x00]).wellFormed = false := by decide
theorem test_wf_getWorkingAntenna : (Instr.getWorkingAntenna 0xFF [0x00]).wellFormed = false := by decide
theorem test_wf_setOutputPower : (Instr.setOutputPower 0xFF []).wellFormed = false := by decide
theorem test_wf_getOutputPower : (Instr.getOutputPower 0xFF [0x00]).wellFormed = false := by decide
theorem test_wf_setDrmMode : (Instr.setDrmMode 0xFF []).wellFormed = false := by decide
theorem test_wf_getDrmMode : (Instr.getDrmMode 0xFF [0x00]).wellFormed = false := by decide
theorem test_wf_setAntDetectMode : (Instr.setAntDetectMode 0xFF []).wellFormed = false := by decide
theorem test_wf_getAntDetectMode : (Instr.getAntDetectMode 0xFF [0x00]).wellFormed = false := by decide
theorem test_wf_setReaderAddress_count : (Instr.setReaderAddress 0xFF [0xFF, 0x00]).wellFormed = false := by decide
theorem test_wf_setReaderAddress_broadcast : (Instr.setReaderAddress 0xFF [0xFF]).wellFormed = false := by decide
theorem test_wf_startRealtimeInventory : (Instr.startRealtimeInventory 0xFF []).wellFormed = false := by decide
theorem test_wf_startNamedInventory : (Instr.startNamedInventory 0xFF []).wellFormed = false := by decide
theorem test_wf_encode : (Instr.encode 0x89 0xFF (List.replicate 27 0)).wellFormed = false := by decide
theorem test_wf_encode_limit : (Instr.encode 0x89 0xFF (List.replicate 26 0)).wellFormed = true := by decide

/-! ## Decoding: the words of 95_test_vectors.md L2.1, first column -/

theorem test_decode_reset : decode [0xA0, 0x03, 0xFF, 0x70, 0xEE] = .ok (.reset 0xFF []) := by rfl
theorem test_decode_getFirmwareVersion :
    decode [0xA0, 0x03, 0xFF, 0x72, 0xEC] = .ok (.getFirmwareVersion 0xFF []) := by rfl
theorem test_decode_setBaudRate : decode [0xA0, 0x04, 0xFF, 0x71, 0x04, 0xE8] = .ok (.setBaudRate 0xFF [0x04]) := by rfl
theorem test_decode_setFrequencyRegion :
    decode [0xA0, 0x06, 0xFF, 0x78, 0x01, 0x00, 0x06, 0xDC] = .ok (.setFrequencyRegion 0xFF [0x01, 0x00, 0x06]) := by rfl
theorem test_decode_getFrequencyRegion :
    decode [0xA0, 0x03, 0xFF, 0x79, 0xE5] = .ok (.getFrequencyRegion 0xFF []) := by rfl
theorem test_decode_setWorkingAntenna :
    decode [0xA0, 0x04, 0xFF, 0x74, 0x00, 0xE9] = .ok (.setWorkingAntenna 0xFF [0x00]) := by rfl
theorem test_decode_getWorkingAntenna :
    decode [0xA0, 0x03, 0xFF, 0x75, 0xE9] = .ok (.getWorkingAntenna 0xFF []) := by rfl
theorem test_decode_setOutputPower :
    decode [0xA0, 0x04, 0xFF, 0x76, 0x1E, 0xC9] = .ok (.setOutputPower 0xFF [0x1E]) := by rfl
theorem test_decode_getOutputPower : decode [0xA0, 0x03, 0xFF, 0x77, 0xE7] = .ok (.getOutputPower 0xFF []) := by rfl
theorem test_decode_setDrmMode : decode [0xA0, 0x04, 0xFF, 0x7C, 0x01, 0xE0] = .ok (.setDrmMode 0xFF [0x01]) := by rfl
theorem test_decode_getDrmMode : decode [0xA0, 0x03, 0xFF, 0x7D, 0xE1] = .ok (.getDrmMode 0xFF []) := by rfl
theorem test_decode_setAntDetectMode :
    decode [0xA0, 0x04, 0xFF, 0x62, 0x00, 0xFB] = .ok (.setAntDetectMode 0xFF [0x00]) := by rfl
theorem test_decode_getAntDetectMode : decode [0xA0, 0x03, 0xFF, 0x63, 0xFB] = .ok (.getAntDetectMode 0xFF []) := by rfl
theorem test_decode_setReaderAddress :
    decode [0xA0, 0x04, 0xFF, 0x73, 0x01, 0xE9] = .ok (.setReaderAddress 0xFF [0x01]) := by rfl
theorem test_decode_startRealtimeInventory :
    decode [0xA0, 0x04, 0xFF, 0x89, 0x01, 0xD3] = .ok (.startRealtimeInventory 0xFF [0x01]) := by rfl
theorem test_decode_startNamedInventory :
    decode [0xA0, 0x04, 0xFF, 0x80, 0x01, 0xDC] = .ok (.startNamedInventory 0xFF [0x01]) := by rfl
theorem test_decode_encode : decode [0xA0, 0x05, 0x00, 0xFF, 0x01, 0x02, 0x59] = .ok (.encode 0xFF 0x00 [0x01, 0x02]) := by rfl

/-- A catalog code with another payload size is no catalog command (30_encoding.md R44). -/
theorem test_decode_other_size : decode [0xA0, 0x04, 0xFF, 0x70, 0x00, 0xED] = .ok (.encode 0x70 0xFF [0x00]) := by rfl
theorem test_decode_tooShort : decode [0xA0, 0x03, 0xFF, 0x70] = .error .tooShort := by rfl
theorem test_decode_badHead : decode [0xA1, 0x03, 0xFF, 0x70, 0xEE] = .error .badHead := by rfl
theorem test_decode_badLength : decode [0xA0, 0x02, 0xFF, 0x70, 0xEE] = .error .badLength := by rfl
theorem test_decode_truncated : decode [0xA0, 0x04, 0xFF, 0x74, 0x00] = .error .truncated := by rfl

/-- A table word that is the command byte alone (spec/opcode_table.json, `match_on`). -/
theorem test_table_word_command : decodeTableWord 64 0x78 = some (.setFrequencyRegion 0x00 [0x00, 0x00, 0x00]) := by rfl
theorem test_table_word_frame : decodeTableWord 48 0xE90074FF04A0 = some (.setWorkingAntenna 0xFF [0x00]) := by rfl

/-! ## The request syntax (30_encoding.md R49) -/

theorem test_assemble_reset : assemble "RESET 0xFF" = some [.send (.call (.reset 0xFF []))] := by rfl
theorem test_assemble_antenna :
    assemble "SET_WORKING_ANTENNA 0xFF, 0x00" = some [.send (.call (.setWorkingAntenna 0xFF [0x00]))] := by rfl
theorem test_assemble_region :
    assemble "SET_FREQUENCY_REGION 0xFF, 0x01, 0x00, 0x06"
      = some [.send (.call (.setFrequencyRegion 0xFF [0x01, 0x00, 0x06]))] := by rfl
theorem test_assemble_encode :
    assemble "ENCODE 0xFF, 0x00, [01 02]" = some [.send (.call (.encode 0xFF 0x00 [0x01, 0x02]))] := by rfl
theorem test_assemble_rx : assemble "RX [A0 03 FF 70]" = some [.rxChunk [0xA0, 0x03, 0xFF, 0x70]] := by rfl
theorem test_assemble_pin : assemble "PIN 0" = some [.pin false] := by rfl
theorem test_assemble_tick : assemble "TICK 0x3" = some [.tick, .tick, .tick] := by rfl
theorem test_assemble_unknown : assemble "HALT 0xFF" = none := by rfl

/-! ## Sending: the other two columns of L2.1, one of them for each command -/

theorem test_send_reset :
    exec (.reset 0xED []) idle0 = .next (sentState [0xA0, 0x03, 0xED, 0x70, 0x00] idle0) := by rfl
theorem test_send_getFirmwareVersion :
    exec (.getFirmwareVersion 0x01 []) idle0 = .next (sentState [0xA0, 0x03, 0x01, 0x72, 0xEA] idle0) := by rfl
theorem test_send_setBaudRate :
    exec (.setBaudRate 0x00 [0xFF]) idle0 = .next (sentState [0xA0, 0x04, 0x00, 0x71, 0xFF, 0xEC] idle0) := by rfl
theorem test_send_setFrequencyRegion :
    exec (.setFrequencyRegion 0x01 [0x01, 0x00, 0x06]) idle0
      = .next (sentState [0xA0, 0x06, 0x01, 0x78, 0x01, 0x00, 0x06, 0xDA] idle0) := by rfl
theorem test_send_getFrequencyRegion :
    exec (.getFrequencyRegion 0x01 []) idle0 = .next (sentState [0xA0, 0x03, 0x01, 0x79, 0xE3] idle0) := by rfl
theorem test_send_setWorkingAntenna :
    exec (.setWorkingAntenna 0x00 [0xFF]) idle0 = .next (sentState [0xA0, 0x04, 0x00, 0x74, 0xFF, 0xE9] idle0) := by rfl
theorem test_send_getWorkingAntenna :
    exec (.getWorkingAntenna 0x01 []) idle0 = .next (sentState [0xA0, 0x03, 0x01, 0x75, 0xE7] idle0) := by rfl
theorem test_send_setOutputPower :
    exec (.setOutputPower 0x01 [0x1E]) idle0 = .next (sentState [0xA0, 0x04, 0x01, 0x76, 0x1E, 0xC7] idle0) := by rfl
theorem test_send_getOutputPower :
    exec (.getOutputPower 0x01 []) idle0 = .next (sentState [0xA0, 0x03, 0x01, 0x77, 0xE5] idle0) := by rfl
theorem test_send_setDrmMode :
    exec (.setDrmMode 0x00 [0xFF]) idle0 = .next (sentState [0xA0, 0x04, 0x00, 0x7C, 0xFF, 0xE1] idle0) := by rfl
theorem test_send_getDrmMode :
    exec (.getDrmMode 0x01 []) idle0 = .next (sentState [0xA0, 0x03, 0x01, 0x7D, 0xDF] idle0) := by rfl
theorem test_send_setAntDetectMode :
    exec (.setAntDetectMode 0x00 [0xFF]) idle0 = .next (sentState [0xA0, 0x04, 0x00, 0x62, 0xFF, 0xFB] idle0) := by rfl
theorem test_send_getAntDetectMode :
    exec (.getAntDetectMode 0x01 []) idle0 = .next (sentState [0xA0, 0x03, 0x01, 0x63, 0xF9] idle0) := by rfl
theorem test_send_setReaderAddress :
    exec (.setReaderAddress 0xFF [0x00]) idle0 = .next (sentState [0xA0, 0x04, 0xFF, 0x73, 0x00, 0xEA] idle0) := by rfl
theorem test_send_startRealtimeInventory :
    exec (.startRealtimeInventory 0x01 [0x01]) idle0 = .next (sentState [0xA0, 0x04, 0x01, 0x89, 0x01, 0xD1] idle0) := by rfl
theorem test_send_startNamedInventory :
    exec (.startNamedInventory 0x00 [0xFF]) idle0 = .next (sentState [0xA0, 0x04, 0x00, 0x80, 0xFF, 0xDD] idle0) := by rfl
theorem test_send_encode :
    exec (.encode 0x00 0xFF []) idle0 = .next (sentState [0xA0, 0x03, 0xFF, 0x00, 0x5E] idle0) := by rfl
theorem test_send_encode_longest :
    frameBytes 0x89 0xFF (List.replicate 26 0) = [0xA0, 0x1D, 0xFF, 0x89] ++ List.replicate 26 0 ++ [0xBB] := by rfl

/-! Refusals (95_test_vectors.md L2.1, L2.6). -/

theorem test_refuse_long :
    exec (.encode 0x89 0xFF (List.replicate 27 0)) idle0 = .next (refusedState .payloadTooLong idle0) := by rfl
theorem test_refuse_count : exec (.setBaudRate 0xFF []) idle0 = .next (refusedState .badOperandCount idle0) := by rfl
theorem test_refuse_extra : exec (.getOutputPower 0xFF [0x00]) idle0 = .next (refusedState .badOperandCount idle0) := by rfl
theorem test_refuse_count_first :
    exec (.setReaderAddress 0xFF [0xFF, 0x00]) idle0 = .next (refusedState .badOperandCount idle0) := by rfl
theorem test_refuse_address :
    exec (.setReaderAddress 0x01 [0xFF]) idle0 = .next (refusedState .addressOutOfRange idle0) := by rfl
theorem test_held_send : exec (.reset 0xFF []) stalled = .next stalled := by rfl

/-! ## VERIFY and DECODE (95_test_vectors.md L2.2, L2.3) -/

theorem test_verify_good : verify [0xA0, 0x03, 0x01, 0x70, 0xEC] = some true := by decide
theorem test_verify_bad : verify [0xA0, 0x04, 0xFF, 0x74, 0x00, 0xEF] = some false := by decide
theorem test_verify_zero : verify [0xA0, 0x03, 0xED, 0x70, 0x00] = some true := by decide
theorem test_verify_outside : verify [0xA0, 0x03, 0x01, 0x70] = none := by decide
/-- Bytes that DECODE answers `BadHeader` (40_frame_codec.md R52). -/
theorem test_verify_bad_head : verify [0xA1, 0x03, 0x01, 0x70, 0xEB] = none := by decide
/-- Bytes that DECODE answers `LengthMismatch`: 95_test_vectors.md D-10. -/
theorem test_verify_bad_length : verify ([0xA0, 0x1F, 0x01, 0x89] ++ List.replicate 28 0 ++ [0xB7]) = none := by decide
theorem test_rx_d1 : decodeFrame false [0xA0, 0x03, 0x01, 0x70, 0xEC] = .ok shortDecoded := by rfl
theorem test_rx_d2 :
    decodeFrame false [0xA0, 0x03, 0x01, 0x70, 0x00] = .ok { shortDecoded with checksum := 0x00, chkOk := false } := by rfl
theorem test_rx_d2_strict : decodeFrame true [0xA0, 0x03, 0x01, 0x70, 0x00] = .error .checksumMismatch := by rfl
theorem test_rx_d3 : decodeFrame true [0xA0, 0x03, 0x01, 0x70, 0xEC, 0xA0] = .ok shortDecoded := by rfl
theorem test_rx_d6 : decodeFrame false [0x00, 0xA0, 0x03, 0x01, 0x70, 0xEC] = .error .badHeader := by rfl
theorem test_rx_d7 : decodeFrame false [0xA0, 0x10, 0xFF, 0x89, 0x00] = .error .lengthMismatch := by rfl
theorem test_rx_d8 : decodeFrame false [0xA0, 0x02, 0xFF, 0x70, 0xEE] = .error .lengthMismatch := by rfl
theorem test_rx_d10 :
    decodeFrame false ([0xA0, 0x1F, 0x01, 0x89] ++ List.replicate 28 0 ++ [0xB7]) = .error .lengthMismatch := by rfl
theorem test_rx_d11 :
    (decodeFrame true ([0xA0, 0x1E, 0x01, 0x89] ++ List.replicate 27 0 ++ [0xB8])).toOption.map (·.data)
      = some (List.replicate 27 0) := by rfl
theorem test_rx_d14 : decodeFrame false [0xA1, 0x02, 0x01] = .error .tooShort := by rfl
theorem test_rx_d15 : decodeFrame false [0xA1, 0x02, 0x01, 0x70, 0xEE] = .error .badHeader := by rfl

/-! ## The producer (95_test_vectors.md L2.4) -/

theorem test_extract_T : extractTag tagDecoded = some (tagEvent 0xAB) := by decide
theorem test_extract_14 : extractTag { tagDecoded with data := tagDecoded.data.take 14 } = none := by decide
theorem test_extract_trailing :
    (extractTag { tagDecoded with data := tagDecoded.data ++ [0x5A, 0x00, 0x01] }).map (·.trailing)
      = some [0x5A, 0x00, 0x01] := by decide
theorem test_rxChunk_T :
    take (.rxChunk (tagFrame 0x69)) idle0
      = .next { idle0 with fifo := [tagEvent 0xAB], hist := [.rxFrame tagDecoded, .pushed (tagEvent 0xAB)] } := by rfl
theorem test_rxChunk_full :
    take (.rxChunk (tagFrame 0x69)) (withEvents 10)
      = .next { withEvents 10 with rxPending := some (tagEvent 0xAB), hist := [.rxFrame tagDecoded] } := by rfl
theorem test_rxChunk_empty : take (.rxChunk []) idle0 = .next { idle0 with hist := [.rxEmpty] } := by rfl
theorem test_rxChunk_corrupt_strict :
    take (.rxChunk (tagFrame 0x00)) { idle0 with strict := true }
      = .next { idle0 with strict := true, hist := [.rxError .checksumMismatch], lastErr := some .checksumMismatch } := by rfl
theorem test_pushRetry :
    take .pushRetry { stalled with fifo := List.replicate 9 (tagEvent 0xAB) }
      = .next { withEvents 10 with hist := [.pushed (tagEvent 0xAB)] } := by rfl

/-! ## The lock controller (95_test_vectors.md L2.5) -/

theorem test_pop :
    take .pop { idle0 with fifo := [tagEvent 1, tagEvent 2] }
      = .next
        { idle0 with
          fifo := [tagEvent 2], cur := some (tagEvent 1), act := .released, actPin := true, ls := .engaged
          hist := [.popped (tagEvent 1), .drive .released] } := by rfl
theorem test_engage : take .engage { idle0 with ls := .engaged } = .next { idle0 with ls := .waitingForOverride } := by rfl
theorem test_sample_not_pressed :
    take .sample (waiting 0 true) = .next { waiting 100 true with hist := [.sample true] } := by rfl
theorem test_sample_pressed :
    take .sample (waiting 0 false)
      = .next { waiting 0 false with ls := .relocking, relockCnt := 4000, hist := [.sample false] } := by rfl
theorem test_tick_waiting : take .tick (waiting 100 true) = .next { waiting 99 true with now := 1 } := by rfl
theorem test_tick_relocking : take .tick (relocking 1) = .next { relocking 0 with now := 1 } := by rfl
theorem test_tick_not_enabled : enabled .tick (relocking 0) = false := by decide
theorem test_relockDone : take .relockDone (relocking 0) = .next { idle0 with hist := [.drive .secured] } := by rfl

/-! ## The step -/

/-- Right after reset, the next step is the boot configuration. -/
theorem test_step_boots : step State.reset = .next { State.reset with booted := true } := by rfl
/-- A table word placed at reset is fetched and run by the very next step. -/
theorem test_step_placed_word :
    step (State.reset.withFetchWord 40 0xEE70FF03A0)
      = .next (sentState [0xA0, 0x03, 0xFF, 0x70, 0xEE] { State.reset with booted := true }) := by rfl
/-- An enabled head of the schedule goes first; a SEND that is held waits, and the default step is taken. -/
theorem test_step_held_send :
    step { stalled with sched := [.send (.call (.reset 0xFF []))] }
      = take .pop { stalled with sched := [.send (.call (.reset 0xFF []))] } := by rfl
theorem test_step_bad_frame : step { idle0 with sched := [.send (.frame [0xA0])] } = .refused (.noRequest .tooShort) := by rfl
theorem test_step_before_boot : step { State.reset with sched := [.tick] } = .fault .stepBeforeBoot := by rfl

/-! ## Witnesses: states and operands that meet the hypotheses of each statement, clause by clause -/

/-- An idle state in which an event waits, with the history that put it there. -/
def loaded : State :=
  { idle0 with fifo := [tagEvent 0xAB], hist := [.rxFrame tagDecoded, .pushed (tagEvent 0xAB)] }

theorem witness_sendReady : sendReady idle0 := ⟨rfl, rfl⟩

theorem witness_ChecksumIsNegatedSum : byteSum [0xFF, 0x01] % 256 = byteSum [] % 256 := by decide

theorem witness_ChecksumCatchesSingleByteErrors :
    byteSum [0xA0, 0x03, 0x01, 0x70, 0xEC] % 256 = 0
      ∧ (0xA1 : Byte) ≠ byteAt [0xA0, 0x03, 0x01, 0x70, 0xEC] 0 ∧ (0xED : Byte) ≠ byteAt [0xA0, 0x03, 0x01, 0x70, 0xEC] 4
      ∧ (0xA1 : Byte) + 0xEB = byteAt [0xA0, 0x03, 0x01, 0x70, 0xEC] 0 + byteAt [0xA0, 0x03, 0x01, 0x70, 0xEC] 4
      ∧ List.Perm [0xA0, 0x03, 0x01, 0x70, 0xEC] [0x03, 0xA0, 0x01, 0x70, (0xEC : Byte)] := by decide

theorem witness_FramesHaveOneLayout :
    (List.replicate 26 (0 : Byte)).length ≤ 26 ∧ decodeFrame true [0xA0, 0x03, 0x01, 0x70, 0xEC] = .ok shortDecoded
      ∧ decodeFrame true (tagFrame 0x69) = .ok tagDecoded
      ∧ (byteAt [0xA0, 0x02, 0xFF, 0x70, 0xEE] 1).toNat < 3 ∧ 30 < (byteAt [0xA0, 0x1F, 0xFF, 0x70, 0xEE] 1).toNat :=
  ⟨by decide, rfl, rfl, by decide, by decide⟩

theorem witness_EncodeBuildsAndSendsThePacket :
    ([] : List Byte).length ≤ 26 ∧ (List.replicate 26 (0 : Byte)).length ≤ 26 ∧ 26 < (List.replicate 27 (0 : Byte)).length
      ∧ sendReady idle0 := ⟨by decide, by decide, by decide, witness_sendReady⟩

/-- Length bytes 3 and 30 in the domain; a bad head, length bytes 2 and 31, and a byte too many outside it. -/
theorem witness_VerifyIsTheZeroSumTest :
    (∀ s ∈ [[0xA0, 0x03, 0x01, 0x70, (0xEC : Byte)], [0xA0, 0x1E, 0x01, 0x89] ++ List.replicate 28 0],
        byteAt s 0 = 0xA0 ∧ 3 ≤ (byteAt s 1).toNat ∧ (byteAt s 1).toNat ≤ 30 ∧ s.length = (byteAt s 1).toNat + 2)
      ∧ (∀ s ∈ [[0xA1, 0x03, 0x01, 0x70, (0xEB : Byte)], [0xA0, 0x02, 0x01, 0x70], [0xA0, 0x1F] ++ List.replicate 31 0,
          [0xA0, 0x03, 0x01, 0x70, 0xEC, 0x00]],
        ¬(byteAt s 0 = 0xA0 ∧ 3 ≤ (byteAt s 1).toNat ∧ (byteAt s 1).toNat ≤ 30 ∧ s.length = (byteAt s 1).toNat + 2))
      ∧ decodeFrame false [0xA1, 0x03, 0x01, 0x70, 0xEB] = .error .badHeader := ⟨by decide, by decide, rfl⟩

/-- One chunk for each clause: 4 bytes, a bad head, lengths 2, 31 and one past the chunk, and lengths 3 and 30. -/
theorem witness_DecodeChecksInOrder :
    [0xA0, 0x03, 0xFF, (0x70 : Byte)].length < 5 ∧ byteAt [0xA1, 0x03, 0xFF, 0x70, 0xEE] 0 ≠ 0xA0
      ∧ (∀ L ∈ [2, 31, 4], ¬(3 ≤ L ∧ L - 3 ≤ 27 ∧ L + 2 ≤ 5)) ∧ (3 ≤ 3 ∧ 3 - 3 ≤ 27 ∧ 3 + 2 ≤ 5)
      ∧ (3 ≤ 30 ∧ 30 - 3 ≤ 27 ∧ 30 + 2 ≤ 32) ∧ checksumOf [0xA0, 0x03, 0x01, 0x70] ≠ 0x00
      ∧ checksumOf [0xA0, 0x03, 0x01, 0x70] = 0xEC := by decide

theorem witness_DecodeReadsTheFrameOnly :
    decodeFrame true [0xA0, 0x03, 0x01, 0x70, 0xEC] = .ok shortDecoded
      ∧ 5 ≤ [0xA0, 0x03, 0x01, 0x70, (0xEC : Byte)].length
      ∧ (byteAt [0xA0, 0x03, 0x01, 0x70, 0xEC] 1).toNat + 2 ≤ [0xA0, 0x03, 0x01, 0x70, (0xEC : Byte)].length :=
  ⟨rfl, by decide, by decide⟩

theorem witness_DecodedCommandIsTheCommand : ([] : List Byte).length ≤ 26 ∧ (List.replicate 26 (0 : Byte)).length ≤ 26 := by
  decide

/-- A tag frame with a wrong checksum, cut after 1, 4, 5, 15, 16 and 19 of its 20 bytes; and the largest response frame. -/
theorem witness_SplitFrameIsLost :
    decodeFrame false (tagFrame 0x00) = .ok { tagDecoded with checksum := 0x00, chkOk := false }
      ∧ (tagFrame 0x00).length = tagDecoded.length.toNat + 2
      ∧ (∀ k ∈ [1, 4, 5, 15, 16, 19], 0 < k ∧ k < (tagFrame 0x00).length ∧ byteAt ((tagFrame 0x00).drop k) 0 ≠ 0xA0)
      ∧ (decodeFrame false ([0xA0, 0x1E, 0x01, 0x89] ++ List.replicate 28 0)).toOption.map (·.data.length) = some 27
      ∧ [(0x00 : Byte)].length ≤ 26 := ⟨rfl, by decide, by decide, rfl, by decide⟩

theorem witness_SetReaderAddressRefusesBroadcast : sendReady idle0 ∧ (0xFE : Byte) ≠ 0xFF ∧ (0xFF : Byte) = 0xFF :=
  ⟨witness_sendReady, by decide, rfl⟩

theorem witness_CatalogRequestIsItsEncode :
    isCatalog (.setReaderAddress 0x01 [0xFE]) = true ∧ sendReady idle0
      ∧ (Instr.setReaderAddress 0x01 [0xFF, 0x00]).payload.length ≠ 1
      ∧ (∀ a, Instr.setReaderAddress 0x01 [0xFE] ≠ .setReaderAddress a [0xFF]) :=
  ⟨rfl, witness_sendReady, by decide, fun a h => absurd (Instr.setReaderAddress.inj h).2 (by decide)⟩

theorem witness_SendStepTransmitsTheRequest :
    sendReady idle0 ∧ (Instr.reset 0xFF []).wellFormed = true ∧ (Instr.reset 0xFF [0x00]).wellFormed = false
      ∧ stalled.booted = true ∧ stalled.rxPending ≠ none :=
  ⟨witness_sendReady, by decide, by decide, rfl, by decide⟩

theorem witness_RequestFrameDecodesBack :
    (Instr.encode 0x70 0xFF [0x00]).wellFormed = true ∧ (Instr.encode 0x70 0xFF [0x00]).canonical = true
      ∧ (Instr.reset 0xFF []).wellFormed = true ∧ (Instr.reset 0xFF []).canonical = true := by decide

theorem witness_SharedFrameDecodesToTheMnemonic :
    (Instr.encode 0x70 0xFF []).wellFormed = true ∧ (Instr.encode 0x70 0xFF []).canonical = false
      ∧ (Instr.encode 0x73 0xFF [0xFF]).wellFormed = true ∧ (Instr.encode 0x73 0xFF [0xFF]).canonical = false := by decide

theorem witness_StepRunsTheDecodedRequest :
    sendReady { idle0 with sched := [.send (.frame [0xA0, 0x03, 0xFF, 0x70, 0xEE])] }
      ∧ decode [0xA0, 0x03, 0xFF, 0x70, 0xEE] = .ok (.reset 0xFF []) ∧ decode [0xA0] = .error .tooShort
      ∧ decodeTableWord 40 0xEE70FF03A0 = some (.reset 0xFF []) := ⟨⟨rfl, rfl⟩, rfl, rfl, rfl⟩

theorem witness_EveryInterleavingIsARun :
    takeAll [.rxChunk (tagFrame 0x69), .pin false] idle0 = some { loaded with ovrPin := false } := by rfl

theorem witness_EveryStepIsAnEnabledStep : step loaded = .next (pop loaded) := by rfl

theorem witness_BootedStepNeverStops :
    loaded.booted = true
      ∧ ∀ (bytes : List Byte) (rest : List Action) (e : DecodeError),
        loaded.sched = .send (.frame bytes) :: rest → decode bytes ≠ .error e := ⟨rfl, fun _ _ _ h => nomatch h⟩

/-- Waiting, with nothing pending; and a push that ends the wait. -/
theorem witness_IdleWaitsForAPush :
    idle0.booted = true ∧ idle0.ls = .idle ∧ idle0.fifo = [] ∧ idle0.rxPending = none ∧ idle0.sched = []
      ∧ take (.rxChunk (tagFrame 0x69)) idle0 = .next loaded ∧ take .tick idle0 = .next { idle0 with now := 1 } :=
  ⟨rfl, rfl, rfl, rfl, rfl, rfl, rfl⟩

theorem witness_NoStepBeforeBoot :
    State.reset.booted = false ∧ Action.tick ≠ .boot ∧ { State.reset with sched := [.tick] }.sched = Action.tick :: [] :=
  ⟨rfl, by decide, rfl⟩

/-- Data of 10, 11, 14 and 15 bytes, and a decoded tag frame. -/
theorem witness_ExtractTagByDataLength :
    (tagDecoded.data.take 10).length ≤ 10 ∧ 10 < (tagDecoded.data.take 11).length ∧ (tagDecoded.data.take 14).length < 15
      ∧ 15 ≤ tagDecoded.data.length ∧ decodeFrame false (tagFrame 0x69) = .ok tagDecoded
      ∧ extractTag tagDecoded = some (tagEvent 0xAB) := ⟨by decide, by decide, by decide, by decide, rfl, by decide⟩

/-- The shortest tag frame, with a wrong checksum, and the longest length byte. -/
theorem witness_CorruptedTagFrameIsPushed :
    sendReady (withEvents 9) ∧ (withEvents 9).strict = false ∧ (withEvents 9).fifo.length < 10
      ∧ byteAt (tagFrame 0x00) 0 = 0xA0 ∧ 18 ≤ (byteAt (tagFrame 0x00) 1).toNat
      ∧ (byteAt (tagFrame 0x00) 1).toNat + 2 ≤ (tagFrame 0x00).length
      ∧ (byteAt ([0xA0, 0x1E] ++ List.replicate 30 0) 1).toNat ≤ 30 :=
  ⟨⟨rfl, rfl⟩, rfl, by decide, by decide, by decide, by decide, by decide⟩

/-- A chunk for each clause, with 9 and with 10 events in the FIFO. -/
theorem witness_RxChunkDecodesAndPushes :
    sendReady (withEvents 9) ∧ sendReady (withEvents 10) ∧ decodeFrame false [0xA0, 0x03, 0xFF, 0x70] = .error .tooShort
      ∧ decodeFrame false [0xA0, 0x03, 0x01, 0x70, 0xEC] = .ok shortDecoded ∧ extractTag shortDecoded = none
      ∧ decodeFrame false (tagFrame 0x69) = .ok tagDecoded ∧ extractTag tagDecoded = some (tagEvent 0xAB)
      ∧ (withEvents 9).fifo.length < 10 ∧ 10 ≤ (withEvents 10).fifo.length :=
  ⟨⟨rfl, rfl⟩, ⟨rfl, rfl⟩, rfl, rfl, by decide, rfl, by decide, by decide, by decide⟩

theorem witness_StatusShowsTheLastDecode :
    take (.rxChunk [0xA0]) idle0 = .next { idle0 with hist := [.rxError .tooShort], lastErr := some .tooShort }
      ∧ take (.rxChunk []) idle0 = .next { idle0 with hist := [.rxEmpty] }
      ∧ take (.rxChunk [0xA0]) stalled = .next stalled := ⟨rfl, rfl, rfl⟩

theorem witness_PushRetryCompletesThePush :
    stalled.booted = true ∧ stalled.rxPending = some (tagEvent 0xAB)
      ∧ { stalled with fifo := List.replicate 9 (tagEvent 0xAB) }.fifo.length < 10
      ∧ Action.pin true ≠ .pop ∧ enabled .pushRetry stalled = false ∧ take (.pin true) stalled = .next stalled :=
  ⟨rfl, rfl, by decide, by decide, by decide, rfl⟩

theorem witness_HeldProducerWaits :
    stalled.booted = true ∧ stalled.rxPending = some (tagEvent 0xAB) ∧ take .pop stalled = .next (pop stalled)
      ∧ stalled.fifo.length ≤ 10 ∧ enabled .pop stalled = true := ⟨rfl, rfl, rfl, by decide, by decide⟩

theorem witness_EveryTagFrameIsPushedOnce :
    enabled (.rxChunk (tagFrame 0x69)) idle0 = true ∧ take (.rxChunk (tagFrame 0x69)) idle0 = .next loaded
      ∧ decodeFrame idle0.strict (tagFrame 0x69) = .ok tagDecoded := ⟨rfl, rfl, rfl⟩

theorem witness_EleventhEventWaitsForAPop :
    sendReady (withEvents 10) ∧ (withEvents 10).ls = .idle
      ∧ (withEvents 10).fifo = tagEvent 0xAB :: List.replicate 9 (tagEvent 0xAB) ∧ tagFrame 0x69 ≠ []
      ∧ decodeFrame (withEvents 10).strict (tagFrame 0x69) = .ok tagDecoded
      ∧ extractTag tagDecoded = some (tagEvent 0xAB) := ⟨⟨rfl, rfl⟩, rfl, rfl, by decide, rfl, by decide⟩

theorem witness_PopReleasesTheLock :
    loaded.booted = true ∧ loaded.ls = .idle ∧ loaded.fifo = tagEvent 0xAB :: []
      ∧ take (.pin true) loaded = .next loaded := ⟨rfl, rfl, rfl, rfl⟩

theorem witness_EngageArmsTheFirstSample : (pop loaded).booted = true ∧ (pop loaded).ls = .engaged := ⟨rfl, rfl⟩

theorem witness_SampleReadsThePinOnce :
    ∀ v, (waiting 0 v).booted = true ∧ (waiting 0 v).ls = .waitingForOverride ∧ (waiting 0 v).pollCnt = 0
      ∧ (waiting 0 v).ovrPin = v := fun _ => ⟨rfl, rfl, rfl, rfl⟩

theorem witness_RelockDoneSecuresTheLock :
    (relocking 0).booted = true ∧ (relocking 0).ls = .relocking ∧ (relocking 0).relockCnt = 0
      ∧ { relocking 0 with fifo := [tagEvent 1] }.fifo ≠ [] ∧ ControllerInv (relocking 0) :=
  ⟨rfl, rfl, rfl, by decide, by constructor <;> decide⟩

theorem witness_TickCountsDown :
    idle0.booted = true ∧ enabled .tick idle0 = true ∧ enabled .tick (waiting 1 true) = true
      ∧ enabled .tick (relocking 1) = true := by decide

theorem witness_LockStepsGoBeforeTime :
    loaded.booted = true ∧ isLockStep .pop = true ∧ enabled .pop loaded = true ∧ settled (waiting 1 true) = true := by decide

theorem witness_OnlySampleReadsThePin :
    (∀ w, Action.tick ≠ .pin w) ∧ ¬(Action.tick = .sample ∧ idle0.ls = .waitingForOverride ∧ idle0.pollCnt = 0)
      ∧ ¬(Action.sample = .sample ∧ (waiting 1 false).ls = .waitingForOverride ∧ (waiting 1 false).pollCnt = 0) :=
  ⟨fun _ h => (nomatch h), by decide, by decide⟩

theorem witness_WaitsForOverrideForEver :
    takeAll [.sample, .tick] (waiting 0 true) = some { waiting 99 true with now := 1, hist := [.sample true] }
      ∧ (waiting 0 true).ls = .waitingForOverride ∧ Event.sample false ∉ [Event.sample true] := ⟨rfl, rfl, by decide⟩

theorem witness_FullFifoStallsTheReader :
    takeAll [.sample] { waiting 0 true with fifo := stalled.fifo, rxPending := stalled.rxPending }
        = some { waiting 100 true with fifo := stalled.fifo, rxPending := stalled.rxPending, hist := [.sample true] }
      ∧ stalled.fifo.length = 10 ∧ stalled.rxPending ≠ none := ⟨rfl, by decide, by decide⟩

theorem witness_DelaysAreExact :
    takeAll [.tick] (relocking 4000) = some { relocking 3999 with now := 1 } ∧ Action.relockDone ∉ [Action.tick]
      ∧ takeAll [.tick] (waiting 100 true) = some { waiting 99 true with now := 1 } ∧ Action.sample ∉ [Action.tick] :=
  ⟨rfl, by decide, rfl, by decide⟩

/-- The first step of an interleaving. -/
theorem takeAll_cons {a : Action} {as : List Action} {s t : State} (he : enabled a s = true) (ht : take a s = .next t) :
    takeAll (a :: as) s = takeAll as t := by simp only [takeAll, he, ht, if_true]

/-- `n` ticks of the re-lock delay. -/
theorem takeAll_ticks (n k c : Nat) (h : List Event) :
    takeAll (List.replicate n .tick) { relocking (c + n) with ovrPin := false, now := k, hist := h }
      = some { relocking c with ovrPin := false, now := k + n, hist := h } := by
  induction n generalizing k with
  | zero => rfl
  | succ n ih =>
    have := ih (k + 1)
    rw [Nat.add_assoc, Nat.add_comm 1 n] at this
    exact this

/-- Pressed at a sample, and 101 ms later. -/
theorem witness_LongPressIsSeen :
    takeAll (.sample :: List.replicate 101 .tick) (waiting 0 false)
        = some { relocking 3899 with ovrPin := false, now := 101, hist := [.sample false] }
      ∧ (waiting 0 false).ls = .waitingForOverride ∧ (waiting 0 false).pollCnt ≤ 100 ∧ (waiting 0 false).ovrPin = false
      ∧ (waiting 0 false).now + 100 < 101 ∧ Action.pin true ∉ Action.sample :: List.replicate 101 .tick :=
  ⟨(takeAll_cons rfl rfl).trans (takeAll_ticks 101 0 3899 [.sample false]), rfl, by decide, rfl, by decide, by simp only [List.mem_cons, List.mem_replicate]; simp⟩

/-- The history after a cycle in which the pin was pressed at the first sample, but for the last step. -/
def pressedHistory : List Event :=
  [.rxFrame tagDecoded, .pushed (tagEvent 0xAB), .popped (tagEvent 0xAB), .drive .released, .sample false]

/-- A POP, a first sample that reads pressed, and the re-lock delay; and a first sample that is due. -/
theorem witness_ReleaseDuration :
    takeAll (.pop :: .engage :: .sample :: List.replicate 4000 .tick) { loaded with ovrPin := false }
        = some { relocking 0 with ovrPin := false, now := 4000, hist := pressedHistory }
      ∧ Action.relockDone ∉ Action.engage :: Action.sample :: List.replicate 4000 .tick
      ∧ Moves .relockDone { relocking 0 with ovrPin := false, now := 4000, hist := pressedHistory }
        (relockDone { relocking 0 with ovrPin := false, now := 4000, hist := pressedHistory })
      ∧ takeAll [.pop, .engage] loaded = some (engage (pop loaded)) ∧ enabled .sample (engage (pop loaded)) = true := by
  refine ⟨?_, by simp only [List.mem_cons, List.mem_replicate]; simp, ⟨rfl, rfl⟩, rfl, by decide⟩
  exact ((takeAll_cons rfl rfl).trans ((takeAll_cons rfl rfl).trans (takeAll_cons rfl rfl))).trans
    (takeAll_ticks 4000 0 0 pressedHistory)

/-- The pin pressed at the first and at the second sample. -/
theorem witness_LockCycleRunsToCompletion :
    ∀ k ∈ [1, 2], 1 ≤ k
      ∧ sendReady { loaded with sched := List.replicate (100 * (k - 1)) .tick ++ [.pin false] }
      ∧ ControllerInv { loaded with sched := List.replicate (100 * (k - 1)) .tick ++ [.pin false] }
      ∧ loaded.ls = .idle ∧ loaded.fifo = tagEvent 0xAB :: [] ∧ loaded.ovrPin = true := by
  intro k hk
  refine ⟨by simp at hk; omega, ⟨rfl, rfl⟩, ?_, rfl, rfl, rfl⟩
  constructor <;> simp [loaded, idle0, State.reset]

/-- A fair run with the pin pressed: the re-lock delay ends, and then only time passes. -/
def fairPath : Nat → State
  | 0 => { relocking 1 with ovrPin := false }
  | 1 => { relocking 0 with ovrPin := false, now := 1 }
  | n + 2 => { idle0 with ovrPin := false, now := n + 1, hist := [.drive .secured] }

/-- The steps of `fairPath`. -/
def fairSteps : Nat → Action
  | 1 => .relockDone
  | _ => .tick

theorem witness_FairRunReturnsToIdle :
    IsRun fairPath fairSteps ∧ WeaklyFair fairPath fairSteps ∧ (fairPath 0).booted = true
      ∧ ∀ m, 0 ≤ m → (fairPath m).ovrPin = false := by
  have late : ∀ a, enabled a (fairPath 2) = false →
      (∀ n, enabled a (fairPath (n + 2)) = enabled a (fairPath 2)) → FairFor a fairPath fairSteps :=
    fun a h2 hn n hen => absurd ((hen (n + 2) (by omega)).symm.trans (hn n)) (by simp [h2])
  refine ⟨?_, ⟨late _ rfl fun _ => rfl, late _ rfl fun _ => rfl, late _ rfl fun _ => rfl, late _ rfl fun _ => rfl,
    late _ rfl fun _ => rfl, fun n => ⟨n + 2, by omega, rfl⟩⟩, rfl, ?_⟩
  · intro n
    match n with
    | 0 => exact ⟨rfl, rfl⟩
    | 1 => exact ⟨rfl, rfl⟩
    | n + 2 => exact ⟨rfl, rfl⟩
  · intro m _
    match m with
    | 0 => rfl
    | 1 => rfl
    | m + 2 => rfl

/-- The invariants hold in a state with an event, from which a step is taken. -/
theorem witness_Invariants : MachineInv loaded ∧ step loaded = .next (pop loaded) := by
  refine ⟨⟨by constructor <;> decide, ⟨by decide, by decide, ?_, ?_⟩, rfl, rfl, by constructor <;> decide,
    by constructor <;> decide⟩, rfl⟩ <;> intro e h <;> cases h

theorem witness_ReachedStatesMeetTheInvariants :
    runFor 1 { State.reset with sched := [.boot] } = .next { State.reset with booted := true } := rfl

/-- Steps of the environment that meet the premises of every clause. -/
theorem witness_OnlyOwnersWrite :
    take (.pin false) loaded = .next { loaded with ovrPin := false } ∧ isLockStep (.pin false) = false
      ∧ (Action.pin false ≠ .tick ∧ Action.pin false ≠ .pushRetry ∧ Action.pin false ≠ .pop ∧ Action.pin false ≠ .boot)
      ∧ loaded.booted = true
      ∧ (∀ c, Action.pin false ≠ .rxChunk c) ∧ (∀ r, Action.pin false ≠ .send r)
      ∧ take .tick idle0 = .next { idle0 with now := 1 } ∧ ∀ v, Action.tick ≠ .pin v :=
  ⟨rfl, rfl, by decide, rfl, fun _ h => (nomatch h), fun _ h => (nomatch h), rfl, fun _ h => nomatch h⟩

theorem witness_BookkeepingOnlyGrows :
    take (.pin false) loaded = .next { loaded with ovrPin := false } ∧ Action.pin false ≠ .tick
      ∧ take .tick idle0 = .next { idle0 with now := 1 } ∧ enabled .tick idle0 = true := ⟨rfl, by decide, rfl, by decide⟩

theorem witness_RefusedRequestEmitsNothing :
    sendReady idle0 ∧ (Instr.setReaderAddress 0x01 [0xFF]).wellFormed = false
      ∧ take .tick (refusedState .addressOutOfRange idle0)
        = .next { refusedState .addressOutOfRange idle0 with now := 1 } := ⟨witness_sendReady, by decide, rfl⟩

theorem witness_StatusOutputsAndCodes : stalled.fifo.length ≤ 10 ∧ ([] : List TagEvent).length ≤ 10 := by decide

end Sys2Proof.Tests
end

/-! # What every step keeps, and what the status outputs show (spec/10_state.md)

`Effect` says once, with a name for each case, all that a step which answers can do. The step lemmas of the invariants
and the statements about the history and the status output are case analyses over it. -/

namespace Sys2Proof.Machine

open Host

/-! ## The effects of a step -/

/-- `Effect a s t`: the step `a` leads from `s` to `t`, by the case it takes (60_exceptions.md R110). -/
inductive Effect : Action → State → State → Prop
  | boot (s : State) : Effect .boot s { s with booted := true }
  | disabled {a : Action} {s : State} (hb : s.booted = true) (ha : enabled a s = false) : Effect a s s
  | refuse {s : State} {q : Request} {i : Instr} {r : RefuseReason} (hq : fetch q = .ok i) (hp : s.rxPending = none)
      (hr : requestPacket i = .error r) : Effect (.send q) s (refuseRequest r s)
  | transmit {s : State} {q : Request} {i : Instr} {k : CommandPacket} (hq : fetch q = .ok i) (hp : s.rxPending = none)
      (hk : requestPacket i = .ok k) : Effect (.send q) s (emitTx k.toBytes s)
  | rxEmpty {s : State} (hp : s.rxPending = none) : Effect (.rxChunk []) s (record .rxEmpty s)
  | rxError {s : State} {c : List Byte} {k : FrameError} (hc : c ≠ []) (hp : s.rxPending = none)
      (hd : decodeFrame s.strict c = .error k) : Effect (.rxChunk c) s (recordError k s)
  | rxFrame {s : State} {c : List Byte} {f : ResponseFrame} (hc : c ≠ []) (hp : s.rxPending = none)
      (hd : decodeFrame s.strict c = .ok f) (he : extractTag f = none) : Effect (.rxChunk c) s (recordFrame f s)
  | rxPush {s : State} {c : List Byte} {f : ResponseFrame} {e : TagEvent} (hc : c ≠ []) (hp : s.rxPending = none)
      (hd : decodeFrame s.strict c = .ok f) (he : extractTag f = some e) (hroom : s.fifo.length < 10) :
      Effect (.rxChunk c) s (pushEvent e (recordFrame f s))
  | rxHold {s : State} {c : List Byte} {f : ResponseFrame} {e : TagEvent} (hc : c ≠ []) (hp : s.rxPending = none)
      (hd : decodeFrame s.strict c = .ok f) (he : extractTag f = some e) (hfull : 10 ≤ s.fifo.length) :
      Effect (.rxChunk c) s { recordFrame f s with rxPending := some e }
  | readFails (s : State) : Effect .readFails s s
  | pushRetry {s : State} {e : TagEvent} (hp : s.rxPending = some e) (hroom : s.fifo.length < 10) :
      Effect .pushRetry s { pushEvent e s with rxPending := none }
  | pop {s : State} {e : TagEvent} {rest : List TagEvent} (hl : s.ls = .idle) (hf : s.fifo = e :: rest) :
      Effect .pop s
        { s with
          fifo := rest, cur := some e, act := .released, actPin := actLevel s.relLevel .released, ls := .engaged,
          hist := s.hist ++ [.popped e] ++ [.drive .released] }
  | engage {s : State} (hl : s.ls = .engaged) : Effect .engage s { s with ls := .waitingForOverride, pollCnt := 0 }
  | samplePressed {s : State} (hl : s.ls = .waitingForOverride) (hc : s.pollCnt = 0) (hv : s.ovrPin = false) :
      Effect .sample s { s with hist := s.hist ++ [.sample false], ls := .relocking, relockCnt := 4000 }
  | sampleReleased {s : State} (hl : s.ls = .waitingForOverride) (hc : s.pollCnt = 0) (hv : s.ovrPin = true) :
      Effect .sample s { s with hist := s.hist ++ [.sample true], pollCnt := 100 }
  | relockDone {s : State} (hl : s.ls = .relocking) (hc : s.relockCnt = 0) :
      Effect .relockDone s
        { s with
          hist := s.hist ++ [.drive .secured], act := .secured, actPin := actLevel s.relLevel .secured, cur := none,
          ls := .idle }
  | tickIdle {s : State} (hl : s.ls = .idle) (hf : s.fifo = []) : Effect .tick s { s with now := s.now + 1 }
  | tickWaiting {s : State} (hl : s.ls = .waitingForOverride) (hc : 0 < s.pollCnt) :
      Effect .tick s { s with now := s.now + 1, pollCnt := s.pollCnt - 1 }
  | tickRelocking {s : State} (hl : s.ls = .relocking) (hc : 0 < s.relockCnt) :
      Effect .tick s { s with now := s.now + 1, relockCnt := s.relockCnt - 1 }
  | pin (v : Bool) (s : State) : Effect (.pin v) s { s with ovrPin := v }

theorem effect_of_exec {q : Request} {i : Instr} {s t : State} (hq : fetch q = .ok i) (h : exec i s = .next t) :
    Effect (.send q) s t := by
  obtain ⟨hb, ⟨hp, rfl⟩ | ⟨hp, ⟨r, hr, rfl⟩ | ⟨k, hk, rfl⟩⟩⟩ := exec_cases h
  · exact .disabled hb (by simp [enabled, held, Option.isSome_iff_ne_none, hp])
  · exact .refuse hq hp hr
  · exact .transmit hq hp hk

theorem effect_of_rxChunk {s : State} (hb : s.booted = true) (c : List Byte) :
    Effect (.rxChunk c) s (if held s then s else rxChunk c s) := by
  cases hp : s.rxPending with
  | some e =>
    have hh : held s = true := by simp [held, hp]
    rw [if_pos hh]
    exact .disabled hb (by simp [enabled, hh])
  | none =>
    rw [if_neg (by simp [held, hp])]
    obtain ⟨rfl, ht⟩ | ⟨hc, k, hd, ht⟩ | ⟨hc, f, hd, he, ht⟩ | ⟨hc, f, e, hd, he, ht⟩ := rxChunk_cases c s
    · exact ht ▸ .rxEmpty hp
    · exact ht ▸ .rxError hc hp hd
    · exact ht ▸ .rxFrame hc hp hd he
    · obtain ⟨hroom, ho⟩ | ⟨hfull, ho⟩ := offerEvent_cases e (recordFrame f s)
      · exact ht ▸ ho ▸ .rxPush hc hp hd he hroom
      · exact ht ▸ ho ▸ .rxHold hc hp hd he hfull

theorem effect_of_pushRetry {s : State} (hb : s.booted = true) : Effect .pushRetry s (pushRetry s) := by
  obtain ⟨hn, ht⟩ | ⟨e, hp, hroom, -, ht⟩ := pushRetry_cases s
  · exact ht.symm ▸ .disabled hb (by simp [enabled, hn])
  · exact ht ▸ .pushRetry hp hroom

theorem effect_of_pop {s : State} (hb : s.booted = true) : Effect .pop s (pop s) := by
  obtain ⟨hn, ht⟩ | ⟨e, rest, hl, hf, -, ht⟩ := pop_cases s
  · exact ht.symm ▸ .disabled hb (by simp [enabled, hn])
  · exact ht ▸ .pop hl hf

theorem effect_of_engage {s : State} (hb : s.booted = true) : Effect .engage s (engage s) := by
  obtain ⟨hn, ht⟩ | ⟨hl, -, ht⟩ := engage_cases s
  · exact ht.symm ▸ .disabled hb (by simp [enabled, hn])
  · exact ht ▸ .engage hl

theorem effect_of_sample {s : State} (hb : s.booted = true) : Effect .sample s (sample s) := by
  obtain ⟨hn, ht⟩ | ⟨hl, hc, -, hv, ht⟩ | ⟨hl, hc, -, hv, ht⟩ := sample_cases s
  · exact ht.symm ▸ .disabled hb (by simp [enabled, hn])
  · exact ht ▸ .samplePressed hl hc hv
  · exact ht ▸ .sampleReleased hl hc hv

theorem effect_of_relockDone {s : State} (hb : s.booted = true) : Effect .relockDone s (relockDone s) := by
  obtain ⟨hn, ht⟩ | ⟨hl, hc, -, ht⟩ := relockDone_cases s
  · exact ht.symm ▸ .disabled hb (by simp [enabled, hn])
  · exact ht ▸ .relockDone hl hc

theorem effect_of_tick {s : State} (hb : s.booted = true) : Effect .tick s (tick s) := by
  obtain ⟨hn, ht⟩ | ⟨-, hl, hf, ht⟩ | ⟨-, hl, hc, ht⟩ | ⟨-, hl, hc, ht⟩ := tick_cases s
  · exact ht.symm ▸ .disabled hb (by simp [enabled, hn])
  · exact ht ▸ .tickIdle hl hf
  · exact ht ▸ .tickWaiting hl hc
  · exact ht ▸ .tickRelocking hl hc

/-- Every step that answers has one of the effects. -/
theorem effect_of_take {a : Action} {s t : State} (h : take a s = .next t) : Effect a s t := by
  obtain ⟨rfl, rfl⟩ | ⟨hb, h⟩ := take_cases h
  · exact .boot s
  obtain ⟨r, i, rfl, hr, hi⟩ | ⟨c, rfl, rfl⟩ | ⟨rfl, rfl⟩ | ⟨rfl, rfl⟩ | ⟨rfl, rfl⟩ | ⟨rfl, rfl⟩ | ⟨rfl, rfl⟩ |
    ⟨rfl, rfl⟩ | ⟨rfl, rfl⟩ | ⟨v, rfl, rfl⟩ := h
  · exact effect_of_exec hr hi
  · exact effect_of_rxChunk hb c
  · exact .readFails _
  · exact effect_of_pushRetry hb
  · exact effect_of_pop hb
  · exact effect_of_engage hb
  · exact effect_of_sample hb
  · exact effect_of_relockDone hb
  · exact effect_of_tick hb
  · exact .pin v s

/-! ## From the agents' steps to the machine's -/

/-- The machine takes some action, from a state in which at most the schedule has moved on. -/
theorem step_eq_take (s : State) : ∃ a q, step s = take a { s with sched := q } := by
  obtain ⟨-, h⟩ | ⟨a, rest, -, -, h⟩ | ⟨-, -, -, -, -, h⟩ := selectAction_cases s
  · exact ⟨defaultAction s, s.sched, by rw [step, h]⟩
  · exact ⟨a, rest, by rw [step, h]⟩
  · exact ⟨defaultAction s, s.sched, by rw [step, h]⟩

/-- What does not look at the schedule and is kept by every effect is kept by every step of the machine. -/
theorem step_keeps {P : State → Prop} (hsched : ∀ s q, P s → P { s with sched := q })
    (heffect : ∀ a s t, P s → Effect a s t → P t) {s t : State} (hs : P s) (h : step s = .next t) : P t := by
  obtain ⟨a, q, hstep⟩ := step_eq_take s
  exact heffect a _ t (hsched s q hs) (effect_of_take (hstep ▸ h))

/-! ## The lock controller's fields (10_state.md R19 to R22) -/

/-- The invariant speaks of five fields. -/
theorem ControllerInv.congr {s t : State} (hs : ControllerInv s) (hl : t.ls = s.ls) (ha : t.act = s.act)
    (hc : t.cur = s.cur) (hp : t.pollCnt = s.pollCnt) (hr : t.relockCnt = s.relockCnt) : ControllerInv t := by
  obtain ⟨h1, h2, h3, h4, h5, h6⟩ := hs
  constructor <;> simpa only [hl, ha, hc, hp, hr]

/-- What the invariant says in each lock state. -/
theorem controllerInv_iff (s : State) :
    ControllerInv s ↔
      (s.ls = .idle ∧ s.cur = none ∧ s.act = .secured ∧ s.pollCnt = 0 ∧ s.relockCnt = 0) ∨
      (s.ls = .engaged ∧ s.cur ≠ none ∧ s.act = .released ∧ s.pollCnt = 0 ∧ s.relockCnt = 0) ∨
      (s.ls = .waitingForOverride ∧ s.cur ≠ none ∧ s.act = .released ∧ s.pollCnt ≤ 100 ∧ s.relockCnt = 0) ∨
      (s.ls = .relocking ∧ s.cur ≠ none ∧ s.act = .released ∧ s.pollCnt = 0 ∧ s.relockCnt ≤ 4000) := by
  constructor
  · rintro ⟨hcur, hact, hpoll, hrelock, hpoll', hrelock'⟩
    cases hl : s.ls <;> cases ha : s.act <;>
      simp_all [Param.pollPeriodMs, Param.relockDelayMs]
  · rintro (⟨hl, hc, ha, hp, hr⟩ | ⟨hl, hc, ha, hp, hr⟩ | ⟨hl, hc, ha, hp, hr⟩ | ⟨hl, hc, ha, hp, hr⟩) <;>
      constructor <;> simp [hl, hc, ha, hp, hr, Param.pollPeriodMs, Param.relockDelayMs]

theorem ControllerInv.idle {s : State} (hs : ControllerInv s) (hl : s.ls = .idle) :
    s.cur = none ∧ s.act = .secured ∧ s.pollCnt = 0 ∧ s.relockCnt = 0 := by
  simpa [hl] using (controllerInv_iff s).mp hs

theorem ControllerInv.engaged {s : State} (hs : ControllerInv s) (hl : s.ls = .engaged) :
    s.cur ≠ none ∧ s.act = .released ∧ s.pollCnt = 0 ∧ s.relockCnt = 0 := by
  simpa [hl] using (controllerInv_iff s).mp hs

theorem ControllerInv.waiting {s : State} (hs : ControllerInv s) (hl : s.ls = .waitingForOverride) :
    s.cur ≠ none ∧ s.act = .released ∧ s.pollCnt ≤ 100 ∧ s.relockCnt = 0 := by
  simpa [hl] using (controllerInv_iff s).mp hs

theorem ControllerInv.relocking {s : State} (hs : ControllerInv s) (hl : s.ls = .relocking) :
    s.cur ≠ none ∧ s.act = .released ∧ s.pollCnt = 0 ∧ s.relockCnt ≤ 4000 := by
  simpa [hl] using (controllerInv_iff s).mp hs

/-- The steps of LC go round the four lock states, TICK stays in one, and no other step writes these fields. -/
theorem controllerInv_of_effect {a : Action} {s t : State} (hs : ControllerInv s) (h : Effect a s t) :
    ControllerInv t := by
  cases h with
  | disabled | readFails => exact hs
  | boot | refuse | transmit | rxEmpty | rxError | rxFrame | rxPush | rxHold | pushRetry | tickIdle | pin =>
    exact hs.congr rfl rfl rfl rfl rfl
  | pop hl =>
    obtain ⟨-, -, hpoll, hrelock⟩ := hs.idle hl
    exact (controllerInv_iff _).mpr (.inr (.inl ⟨rfl, nofun, rfl, hpoll, hrelock⟩))
  | engage hl =>
    obtain ⟨hcur, hact, -, hrelock⟩ := hs.engaged hl
    exact (controllerInv_iff _).mpr (.inr (.inr (.inl ⟨rfl, hcur, hact, Nat.zero_le _, hrelock⟩)))
  | samplePressed hl hc =>
    obtain ⟨hcur, hact, -⟩ := hs.waiting hl
    exact (controllerInv_iff _).mpr (.inr (.inr (.inr ⟨rfl, hcur, hact, hc, le_rfl⟩)))
  | sampleReleased hl =>
    obtain ⟨hcur, hact, -, hrelock⟩ := hs.waiting hl
    exact (controllerInv_iff _).mpr (.inr (.inr (.inl ⟨hl, hcur, hact, le_rfl, hrelock⟩)))
  | tickWaiting hl =>
    obtain ⟨hcur, hact, hpoll, hrelock⟩ := hs.waiting hl
    exact (controllerInv_iff _).mpr (.inr (.inr (.inl ⟨hl, hcur, hact, (Nat.sub_le _ _).trans hpoll, hrelock⟩)))
  | relockDone hl hc =>
    obtain ⟨-, -, hpoll, -⟩ := hs.relocking hl
    exact (controllerInv_iff _).mpr (.inl ⟨rfl, rfl, rfl, hpoll, hc⟩)
  | tickRelocking hl =>
    obtain ⟨hcur, hact, hpoll, hrelock⟩ := hs.relocking hl
    exact (controllerInv_iff _).mpr (.inr (.inr (.inr ⟨hl, hcur, hact, hpoll, (Nat.sub_le _ _).trans hrelock⟩)))

/-- Settles O50: the fields agree after every effect, and the schedule is none of them. -/
theorem stepKeepsControllerInv : Obligations.StepKeepsControllerInv := by
  intro s t hs h
  exact step_keeps (fun _ _ hs => hs.congr rfl rfl rfl rfl rfl) (fun _ _ _ => controllerInv_of_effect) hs h

/-! ## The shapes of the values (10_state.md R13, R17, R18) -/

/-- The data of a decoded frame are as many bytes as its length byte says. -/
theorem length_frameAt_data {c : List Byte} {L : Nat} (h : lengthFits L c.length = true) :
    (frameAt c L).data.length = L - 3 := by
  obtain ⟨h3, -, hc⟩ := (lengthFits_iff L c.length).mp h
  simp only [frameAt, length_slice, Param.lenOverhead]
  omega

/-- The first bytes of a chunk are its four header bytes and what follows them. -/
theorem slice_zero_eq_header_append {c : List Byte} (h : 4 ≤ c.length) (n : Nat) :
    slice c 0 (4 + n) = [byteAt c 0, byteAt c 1, byteAt c 2, byteAt c 3] ++ slice c 4 (4 + n) := by
  match c, h with
  | b0 :: b1 :: b2 :: b3 :: rest, _ => simp [slice, byteAt, Nat.add_comm 4 n]

/-- A frame that passes DECODE's structural checks has the shape of a response frame. -/
theorem frameAt_wf {c : List Byte} (h5 : 5 ≤ c.length) (h0 : byteAt c 0 = Param.head)
    (hfit : lengthFits (byteAt c 1).toNat c.length = true) : (frameAt c (byteAt c 1).toNat).wf = true := by
  have hdata := length_frameAt_data hfit
  obtain ⟨h3, h30, -⟩ := (lengthFits_iff _ _).mp hfit
  have hbody := slice_zero_eq_header_append (c := c) (by omega) ((byteAt c 1).toNat - 3)
  have hlen : (frameAt c (byteAt c 1).toNat).data.length + 3 = (byteAt c 1).toNat := by omega
  have hmax : (frameAt c (byteAt c 1).toNat).data.length ≤ 27 := by omega
  simp only [ResponseFrame.wf, Bool.and_eq_true, beq_iff_eq, decide_eq_true_eq]
  exact ⟨⟨⟨⟨h0, hlen⟩, hmax⟩, congrArg checksumOf hbody⟩, rfl⟩

/-- What DECODE answers has its shape and, in strict mode, a matching checksum. -/
theorem decodeFrame_ok {strict : Bool} {c : List Byte} {f : ResponseFrame} (h : decodeFrame strict c = .ok f) :
    f.wf = true ∧ (strict = true → f.chkOk = true) := by
  obtain ⟨-, hd⟩ | ⟨-, -, hd⟩ | ⟨-, -, -, hd⟩ | ⟨-, -, -, -, -, hd⟩ | ⟨h5, h0, hfit, hchk, hd⟩ :=
    decodeFrame_cases strict c
  case inr.inr.inr.inr =>
    obtain rfl : _ = f := by simpa [hd] using h
    exact ⟨frameAt_wf h5 h0 hfit, hchk⟩
  all_goals simp [hd] at h

/-- The event of a frame within the data limit has the widths of a tag event. -/
theorem extractTag_wf {f : ResponseFrame} {e : TagEvent} (hf : f.data.length ≤ 27) (h : extractTag f = some e) :
    e.wf = true := by
  unfold extractTag at h
  split at h
  · cases h
  · split at h
    · cases h
    · next h15 =>
      simp only [Param.tagMinData] at h15
      cases h
      simp [TagEvent.wf, length_slice, Param.epcLen]
      omega

/-- What DECODE and EXTRACT_TAG make of any chunk is an event of the right widths. -/
theorem extracted_wf {strict : Bool} {c : List Byte} {f : ResponseFrame} {e : TagEvent}
    (hd : decodeFrame strict c = .ok f) (he : extractTag f = some e) : e.wf = true := by
  obtain ⟨hwf, -⟩ := decodeFrame_ok hd
  simp only [ResponseFrame.wf, Bool.and_eq_true, decide_eq_true_eq] at hwf
  obtain ⟨⟨⟨-, hmax⟩, -⟩, -⟩ := hwf
  exact extractTag_wf hmax he

/-- The invariant speaks of three fields. -/
theorem EventsInv.congr {s t : State} (hs : EventsInv s) (hf : t.fifo = s.fifo) (hc : t.cur = s.cur)
    (hp : t.rxPending = s.rxPending) : EventsInv t := by
  obtain ⟨h1, h2, h3, h4⟩ := hs
  constructor <;> simpa only [hf, hc, hp]

/-- An event of the right widths may enter a FIFO that has room. -/
theorem EventsInv.push {s : State} {e : TagEvent} (hs : EventsInv s) (hroom : s.fifo.length < 10)
    (he : e.wf = true) : EventsInv (pushEvent e s) where
  depth := by
    simp only [pushEvent_fifo, List.length_append, List.length_singleton]
    exact hroom
  fifo_wf x hx := by
    obtain hx | rfl := List.mem_append.mp hx |>.imp_right List.mem_singleton.mp
    · exact hs.fifo_wf x hx
    · exact he
  cur_wf := hs.cur_wf
  pending_wf := hs.pending_wf

/-- An event enters the block only as EXTRACT_TAG's, and a FIFO only with room. -/
theorem eventsInv_of_effect {a : Action} {s t : State} (hs : EventsInv s) (h : Effect a s t) : EventsInv t := by
  cases h with
  | disabled | readFails => exact hs
  | boot | refuse | transmit | rxEmpty | rxError | rxFrame | engage | samplePressed | sampleReleased | tickIdle
  | tickWaiting | tickRelocking | pin => exact hs.congr rfl rfl rfl
  | rxPush _ _ hd he hroom =>
    exact EventsInv.push (hs.congr rfl rfl rfl) hroom (extracted_wf hd he)
  | rxHold _ _ hd he =>
    exact ⟨hs.depth, hs.fifo_wf, hs.cur_wf, fun _ h => Option.some.inj h ▸ extracted_wf hd he⟩
  | pushRetry hp hroom =>
    obtain ⟨hdepth, hfifo, hcur, -⟩ := hs.push hroom (hs.pending_wf _ hp)
    exact ⟨hdepth, hfifo, hcur, fun _ h => nomatch h⟩
  | pop hl hf =>
    obtain ⟨hdepth, hfifo, -, hpend⟩ := hs
    rw [hf] at hdepth hfifo
    obtain ⟨hhead, hrest⟩ := List.forall_mem_cons.mp hfifo
    exact ⟨Nat.le_of_succ_le hdepth, hrest, fun _ h => Option.some.inj h ▸ hhead, hpend⟩
  | relockDone => exact ⟨hs.depth, hs.fifo_wf, fun _ h => (nomatch h), hs.pending_wf⟩

/-- The invariant speaks of the frames recorded and the setting. -/
theorem FramesInv.congr {s t : State} (hs : FramesInv s) (hf : framesOf t.hist = framesOf s.hist)
    (hstrict : t.strict = s.strict) : FramesInv t := by
  obtain ⟨h1, h2⟩ := hs
  constructor <;> simpa only [hf, hstrict]

/-- A frame that DECODE answered may be recorded. -/
theorem FramesInv.recordFrame {s : State} {c : List Byte} {f : ResponseFrame} (hs : FramesInv s)
    (hd : decodeFrame s.strict c = .ok f) : FramesInv (recordFrame f s) := by
  obtain ⟨hwf, hchk⟩ := decodeFrame_ok hd
  have hframes : framesOf (Machine.recordFrame f s).hist = framesOf s.hist ++ [f] := by simp [framesOf]
  constructor
  · rw [hframes, List.forall_mem_append]
    exact ⟨hs.shape, by simpa using hwf⟩
  · intro hstrict
    rw [hframes, List.forall_mem_append]
    exact ⟨hs.checked hstrict, by simpa using hchk hstrict⟩

/-- RX_CHUNK alone records frames, and only those DECODE answered. -/
theorem framesInv_of_effect {a : Action} {s t : State} (hs : FramesInv s) (h : Effect a s t) : FramesInv t := by
  cases h with
  | disabled | readFails => exact hs
  | rxFrame _ _ hd => exact hs.recordFrame hd
  | rxPush _ _ hd | rxHold _ _ hd => exact (hs.recordFrame hd).congr (by simp [framesOf]) rfl
  | _ => exact hs.congr (by simp [framesOf]) rfl

/-- Settles O51, by the two invariants' step lemmas over the effects. -/
theorem stepKeepsValueShapes : Obligations.StepKeepsValueShapes := by
  constructor
  · intro s t hs h
    exact step_keeps (fun _ _ hs => hs.congr rfl rfl rfl) (fun _ _ _ => eventsInv_of_effect) hs h
  · intro s t hs h
    exact step_keeps (fun _ _ hs => hs.congr rfl rfl) (fun _ _ _ => framesInv_of_effect) hs h

/-! ## The outputs (10_state.md R16, R20; 60_exceptions.md R104) -/

/-- The invariant across a step that writes the history but neither the actuator, the transmit stream nor the mark: the
events it adds are neither Drive nor Tx nor Refused. -/
theorem OutputsInv.congr {s t : State} (hs : OutputsInv s) (hpin : t.actPin = s.actPin) (hrel : t.relLevel = s.relLevel)
    (hact : t.act = s.act) (htx : t.tx = s.tx) (href : t.refused = s.refused)
    (hdrive : lastDrive .secured t.hist = lastDrive .secured s.hist) (hpackets : packetsOf t.hist = packetsOf s.hist)
    (hrefusal : hasRefusal t.hist = hasRefusal s.hist) : OutputsInv t := by
  obtain ⟨h1, h2, h3, h4⟩ := hs
  constructor <;> simpa only [hpin, hrel, hact, htx, href, hdrive, hpackets, hrefusal]

/-- Each output is written together with the event that the history gains for it. -/
theorem outputsInv_of_effect {a : Action} {s t : State} (hs : OutputsInv s) (h : Effect a s t) : OutputsInv t := by
  cases h with
  | refuse | transmit | pop | relockDone =>
    obtain ⟨hpin, hdrive, htx, href⟩ := hs
    constructor <;> simp [hasRefusal, lastDrive, packetsOf, ← hpin, ← hdrive, ← htx, ← href]
  | _ =>
    exact hs.congr rfl rfl rfl rfl rfl (by simp [lastDrive]) (by simp [packetsOf]) (by simp [hasRefusal])

/-- Settles O54, by the step lemma over the effects. -/
theorem stepKeepsOutputsInv : Obligations.StepKeepsOutputsInv := by
  intro s t hs h
  exact step_keeps (fun _ _ hs => hs.congr rfl rfl rfl rfl rfl rfl rfl rfl) (fun _ _ _ => outputsInv_of_effect) hs h

/-! ## The status outputs (10_state.md R14, R129) -/

/-- Settles O29: RX_CHUNK's effects are told apart by the chunk, the hold and DECODE's answer; no other step writes the
output. -/
theorem statusShowsTheLastDecode : Obligations.StatusShowsTheLastDecode := by
  intro a s t h
  cases effect_of_take h with
  | disabled hb ha =>
    refine .inl ⟨rfl, ?_⟩
    by_cases hrx : ∃ c, a = .rxChunk c
    · obtain ⟨c, rfl⟩ := hrx
      exact .inr ⟨c, rfl, .inr (by simpa [enabled, hb, held, Option.isSome_iff_ne_none] using ha)⟩
    · exact .inl (by simpa using hrx)
  | rxEmpty => exact .inl ⟨rfl, .inr ⟨[], rfl, .inl rfl⟩⟩
  | rxError hc hp hd => exact .inr (.inl ⟨_, _, rfl, hc, hp, hd, rfl⟩)
  | rxFrame hc hp hd | rxPush hc hp hd | rxHold hc hp hd => exact .inr (.inr ⟨_, _, rfl, hc, hp, hd, rfl⟩)
  | _ => exact .inl ⟨rfl, .inl nofun⟩

/-- Settles O60: a FIFO of at most 10 events is counted in 4 bits; the codes are the spec's tables. -/
theorem statusOutputsAndCodes : Obligations.StatusOutputsAndCodes := by
  refine ⟨fun s hs => ⟨?_, ?_, rfl, rfl, rfl⟩, rfl, rfl, rfl, rfl, rfl, rfl, rfl, rfl, rfl, rfl, rfl, rfl, rfl, rfl,
    fun _ => ⟨rfl, rfl⟩⟩
  · have hlt : s.fifo.length < 2 ^ 4 := by omega
    exact Nat.mod_eq_of_lt hlt
  · exact Option.isSome_iff_exists

/-! ## The bookkeeping (10_state.md R24) -/

/-- The history gains events at its end, and the mark is set by a refusal among them alone. -/
theorem Effect.hist_refused {a : Action} {s t : State} (h : Effect a s t) :
    ∃ g, t.hist = s.hist ++ g ∧ (t.refused = true ↔ s.refused = true ∨ ∃ r, Event.refused r ∈ g) := by
  cases h with
  | boot | disabled | readFails | engage | tickIdle | tickWaiting | tickRelocking | pin =>
    exact ⟨[], by simp, by simp⟩
  | pop | rxPush => exact ⟨[_] ++ [_], List.append_assoc _ _ _, by simp⟩
  | _ => exact ⟨[_], rfl, by simp⟩

/-- Time stands still but in TICK. -/
theorem Effect.now_eq {a : Action} {s t : State} (h : Effect a s t) (ha : a ≠ .tick) : t.now = s.now := by
  cases h with
  | tickIdle | tickWaiting | tickRelocking => exact absurd rfl ha
  | _ => rfl

/-- An enabled TICK counts one millisecond, in each lock state. -/
theorem Effect.tick_now {s t : State} (h : Effect .tick s t) (he : enabled .tick s = true) : t.now = s.now + 1 := by
  cases h with
  | disabled _ ha => simp [ha] at he
  | tickIdle | tickWaiting | tickRelocking => rfl

/-- Settles O58, by the effects. -/
theorem bookkeepingOnlyGrows : Obligations.BookkeepingOnlyGrows := by
  intro a s t h
  have hef := effect_of_take h
  refine ⟨hef.hist_refused, hef.now_eq, ?_⟩
  rintro he rfl
  exact hef.tick_now he

/-! ## What the bookkeeping cannot change (10_state.md R24) -/

/-- The result of an operation, but for the bookkeeping, is the same whatever the bookkeeping holds. -/
def IgnoresBookkeeping (f : State → State) : Prop := ∀ s, hardware (f (hardware s)) = hardware (f s)

section
variable (s : State)

@[simp] theorem hardware_booted : (hardware s).booted = s.booted := rfl
@[simp] theorem hardware_strict : (hardware s).strict = s.strict := rfl
@[simp] theorem hardware_rxPending : (hardware s).rxPending = s.rxPending := rfl
@[simp] theorem held_hardware : held (hardware s) = held s := rfl
@[simp] theorem getInput_hardware : getInput (hardware s) = getInput s := rfl
@[simp] theorem fifoHasRoom_hardware : fifoHasRoom (hardware s) = fifoHasRoom s := rfl
@[simp] theorem sampleEnabled_hardware : sampleEnabled (hardware s) = sampleEnabled s := rfl
@[simp] theorem relockDoneEnabled_hardware : relockDoneEnabled (hardware s) = relockDoneEnabled s := rfl
@[simp] theorem lcEnabled_hardware : lcEnabled (hardware s) = lcEnabled s := rfl

end

theorem IgnoresBookkeeping.comp {f g : State → State} (hf : IgnoresBookkeeping f) (hg : IgnoresBookkeeping g) :
    IgnoresBookkeeping fun s => f (g s) := by
  intro s
  calc hardware (f (g (hardware s)))
      _ = hardware (f (hardware (g (hardware s)))) := (hf _).symm
      _ = hardware (f (hardware (g s))) := by rw [hg s]
      _ = hardware (f (g s)) := hf _

theorem record_ignoresBookkeeping (e : Event) : IgnoresBookkeeping (record e) := fun _ => rfl

theorem sendBuilt_ignoresBookkeeping (k : Except RefuseReason CommandPacket) : IgnoresBookkeeping (sendBuilt k) := by
  intro s
  cases k <;> rfl

theorem offerEvent_ignoresBookkeeping (e : TagEvent) : IgnoresBookkeeping (offerEvent e) := by
  intro s
  rw [offerEvent, offerEvent, fifoHasRoom_hardware]
  split <;> rfl

theorem acceptFrame_ignoresBookkeeping (f : ResponseFrame) : IgnoresBookkeeping (acceptFrame f) := by
  have hrec : IgnoresBookkeeping (recordFrame f) := fun _ => rfl
  unfold acceptFrame
  split
  · exact hrec
  · exact (offerEvent_ignoresBookkeeping _).comp hrec

theorem rxChunk_ignoresBookkeeping (c : List Byte) : IgnoresBookkeeping (rxChunk c) := by
  intro s
  rw [rxChunk, rxChunk, hardware_strict]
  split
  · rfl
  · cases decodeFrame s.strict c with
    | error k => rfl
    | ok f => exact acceptFrame_ignoresBookkeeping f s

theorem pushRetry_ignoresBookkeeping : IgnoresBookkeeping pushRetry := by
  intro s
  rw [pushRetry, pushRetry, hardware_rxPending, fifoHasRoom_hardware]
  cases s.rxPending with
  | none => rfl
  | some e => cases fifoHasRoom s <;> rfl

theorem pop_ignoresBookkeeping : IgnoresBookkeeping pop := by
  rintro ⟨fifo, ls, -⟩
  cases ls <;> cases fifo <;> rfl

theorem engage_ignoresBookkeeping : IgnoresBookkeeping engage := by
  rintro ⟨-, ls, -⟩
  cases ls <;> rfl

theorem afterSample_ignoresBookkeeping (v : Bool) : IgnoresBookkeeping (afterSample v) := by
  intro s
  unfold afterSample
  split <;> rfl

theorem sample_ignoresBookkeeping : IgnoresBookkeeping sample := by
  intro s
  rw [sample, sample, sampleEnabled_hardware, getInput_hardware]
  split
  · exact ((afterSample_ignoresBookkeeping _).comp (record_ignoresBookkeeping _)) s
  · rfl

theorem relockDone_ignoresBookkeeping : IgnoresBookkeeping relockDone := by
  intro s
  rw [relockDone, relockDone, relockDoneEnabled_hardware]
  split <;> rfl

theorem tick_ignoresBookkeeping : IgnoresBookkeeping tick := by
  intro s
  rw [tick, tick, lcEnabled_hardware]
  split <;> rfl

theorem exec_hardware (i : Instr) (s : State) :
    mapNext hardware (exec i (hardware s)) = mapNext hardware (exec i s) := by
  rw [exec_eq_send, exec_eq_send, send, send, hardware_booted, held_hardware]
  split
  · rfl
  · split
    · rfl
    · exact congrArg Outcome.next (sendBuilt_ignoresBookkeeping _ s)

/-- Which steps are enabled is decided without the bookkeeping. -/
theorem enabled_hardware (a : Action) (s : State) : enabled a (hardware s) = enabled a s := by
  cases a <;> rfl

theorem perform_hardware (a : Action) (s : State) :
    mapNext hardware (perform a (hardware s)) = mapNext hardware (perform a s) := by
  cases a with
  | boot | readFails | pin => rfl
  | send r =>
    simp only [perform, sendRequest]
    cases fetch r with
    | ok i => exact exec_hardware i s
    | error e => rfl
  | rxChunk c =>
    rw [perform, perform, held_hardware]
    split
    · rfl
    · exact congrArg Outcome.next (rxChunk_ignoresBookkeeping c s)
  | pushRetry => exact congrArg Outcome.next (pushRetry_ignoresBookkeeping s)
  | pop => exact congrArg Outcome.next (pop_ignoresBookkeeping s)
  | engage => exact congrArg Outcome.next (engage_ignoresBookkeeping s)
  | sample => exact congrArg Outcome.next (sample_ignoresBookkeeping s)
  | relockDone => exact congrArg Outcome.next (relockDone_ignoresBookkeeping s)
  | tick => exact congrArg Outcome.next (tick_ignoresBookkeeping s)

/-- Settles O57: each operation ignores the bookkeeping, and so do the step it makes up and the boot mark before it. -/
theorem bookkeepingIsNeverRead : Obligations.BookkeepingIsNeverRead := by
  intro a s
  refine ⟨enabled_hardware a s, ?_⟩
  rw [take, take, hardware_booted]
  split
  · rfl
  · exact perform_hardware a s

end Sys2Proof.Machine

/-! # The FIFO keeps the order of its events (spec/20_memory.md section 4)

An event enters the history's pushed events as it enters the FIFO's tail, and its popped events as it leaves the FIFO's
head. -/

namespace Sys2Proof.Machine

theorem orderInv_reset : OrderInv State.reset := rfl

/-- The invariant speaks of the pushed events, the popped ones and the FIFO. -/
theorem OrderInv.congr {s t : State} (hs : OrderInv s) (hpushed : pushedOf t.hist = pushedOf s.hist)
    (hpopped : poppedOf t.hist = poppedOf s.hist) (hf : t.fifo = s.fifo) : OrderInv t := by
  unfold OrderInv
  rw [hpushed, hpopped, hf]
  exact hs

/-- A decoded frame is recorded before its event enters the FIFO. -/
theorem OrderInv.recordFrame {s : State} (hs : OrderInv s) (f : ResponseFrame) : OrderInv (recordFrame f s) :=
  hs.congr (by simp [pushedOf]) (by simp [poppedOf]) rfl

/-- An event that enters at the tail becomes the last one pushed and the last one still waiting (20_memory.md R31). -/
theorem OrderInv.push {s : State} (hs : OrderInv s) (e : TagEvent) : OrderInv (pushEvent e s) :=
  calc pushedOf (pushEvent e s).hist
    _ = pushedOf s.hist ++ [e] := by simp [pushedOf]
    _ = (poppedOf s.hist ++ s.fifo) ++ [e] := by rw [hs]
    _ = poppedOf (pushEvent e s).hist ++ (pushEvent e s).fifo := by simp [poppedOf]

/-- The event that leaves from the head is the oldest one waiting, and becomes the last one popped (20_memory.md R31). -/
theorem OrderInv.pop {s t : State} {e : TagEvent} {rest : List TagEvent} (hs : OrderInv s) (hf : s.fifo = e :: rest)
    (hpushed : pushedOf t.hist = pushedOf s.hist) (hpopped : poppedOf t.hist = poppedOf s.hist ++ [e])
    (hrest : t.fifo = rest) : OrderInv t :=
  calc pushedOf t.hist
    _ = poppedOf s.hist ++ s.fifo := hpushed.trans hs
    _ = (poppedOf s.hist ++ [e]) ++ rest := by simp [hf]
    _ = poppedOf t.hist ++ t.fifo := by rw [hpopped, hrest]

/-- What has left is an initial part of what has entered; the rest is still in the FIFO. -/
theorem OrderInv.popped_prefix {s : State} (hs : OrderInv s) : poppedOf s.hist <+: pushedOf s.hist :=
  ⟨s.fifo, hs.symm⟩

/-- RX_CHUNK and PUSH_RETRY push, POP pops, and no other step writes the FIFO or records either event. A held event
is neither in the FIFO nor recorded as pushed until PUSH_RETRY. -/
theorem orderInv_of_effect {a : Action} {s t : State} (hs : OrderInv s) (h : Effect a s t) : OrderInv t := by
  cases h with
  | rxPush => exact (hs.recordFrame _).push _
  | pushRetry => exact (hs.push _).congr rfl rfl rfl
  | pop _ hf => exact hs.pop hf (by simp [pushedOf]) (by simp [poppedOf]) rfl
  | _ => exact hs.congr (by simp [pushedOf]) (by simp [poppedOf]) rfl

/-- Settles O52, by the step lemma over the effects. -/
theorem fifoDeliversInOrder : Obligations.FifoDeliversInOrder := by
  refine ⟨orderInv_reset, fun s t hs h => ?_, fun _ hs => hs.popped_prefix⟩
  exact step_keeps (fun _ _ hs => hs.congr rfl rfl rfl) (fun _ _ _ => orderInv_of_effect) hs h

end Sys2Proof.Machine

/-! # The checksum and the frame layout (spec/30_encoding.md)

What one write, and what a reordering, makes of the byte sum; the checksum as the sum's negation modulo 256; and the bytes
of a frame in field order, sent and received. -/

namespace Sys2Proof.Machine

/-! ## The byte sum -/

/-- A byte written into a sequence takes the place of the old one in the sum. -/
theorem byteSum_set {f : List Byte} {i : Nat} (b : Byte) (hi : i < f.length) :
    byteSum (f.set i b) + (byteAt f i).toNat = byteSum f + b.toNat := by
  induction f generalizing i with
  | nil => cases hi
  | cons x f ih =>
    cases i with
    | zero => simp [byteAt]; omega
    | succ i =>
      have hrest : byteSum (f.set i b) + (byteAt f i).toNat = byteSum f + b.toNat := ih (Nat.lt_of_succ_lt_succ hi)
      change x.toNat + byteSum (f.set i b) + (byteAt f i).toNat = x.toNat + byteSum f + b.toNat
      omega

theorem byteAt_set_ne {i j : Nat} (f : List Byte) (b : Byte) (hij : i ≠ j) : byteAt (f.set i b) j = byteAt f j := by
  simp [byteAt, hij]

/-- The sum does not depend on the order of the bytes. -/
theorem byteSum_perm {f g : List Byte} (h : f.Perm g) : byteSum f = byteSum g := by
  induction h with
  | nil => rfl
  | cons x _ ih => simp [ih]
  | swap x y l => simp [Nat.add_left_comm]
  | trans _ _ ih₁ ih₂ => exact ih₁.trans ih₂

/-! ## The checksum -/

/-- The second form of R41. -/
theorem checksumOf_toNat_neg (s : List Byte) : (checksumOf s).toNat = (256 - byteSum s % 256) % 256 := by
  rw [checksumOf_toNat]
  omega

theorem checksumOf_congr {s t : List Byte} (h : byteSum s % 256 = byteSum t % 256) : checksumOf s = checksumOf t := by
  apply BitVec.eq_of_toNat_eq
  rw [checksumOf_toNat_neg, checksumOf_toNat_neg, h]

/-- The checksum is the one byte that completes the sum to 0. -/
theorem byteSum_concat_eq_zero_iff (s : List Byte) (c : Byte) :
    byteSum (s ++ [c]) % 256 = 0 ↔ c = checksumOf s := by
  have hc : c.toNat < 256 := c.isLt
  rw [← BitVec.toNat_inj, checksumOf_toNat_neg]
  simp only [byteSum_append, byteSum_cons, byteSum_nil]
  omega

/-- Settles O1. -/
theorem checksumIsNegatedSum : Obligations.ChecksumIsNegatedSum := by
  refine ⟨fun s => ⟨checksumOf_toNat s, checksumOf_toNat_neg s⟩, fun _ _ => checksumOf_congr, fun cmd addr p => ?_⟩
  rw [frameBytes_eq, List.dropLast_concat]

/-- The sums before and after one changed byte differ by less than 256, and not by 0. -/
theorem byteSum_set_ne_zero {f : List Byte} {i : Nat} {b : Byte} (hf : byteSum f % 256 = 0) (hi : i < f.length)
    (hb : b ≠ byteAt f i) : byteSum (f.set i b) % 256 ≠ 0 := by
  have hset := byteSum_set b hi
  have hne : b.toNat ≠ (byteAt f i).toNat := fun h => hb (BitVec.eq_of_toNat_eq h)
  have hlt : b.toNat < 256 := b.isLt
  have hlt' : (byteAt f i).toNat < 256 := (byteAt f i).isLt
  omega

/-- Two changes that cancel modulo 256 keep the sum modulo 256. -/
theorem byteSum_set_set {f : List Byte} {i j : Nat} {b c : Byte} (hi : i < f.length) (hj : j < f.length) (hij : i ≠ j)
    (hbc : b + c = byteAt f i + byteAt f j) : byteSum ((f.set i b).set j c) % 256 = byteSum f % 256 := by
  have hfirst := byteSum_set b hi
  have hsecond : byteSum ((f.set i b).set j c) + (byteAt f j).toNat = byteSum (f.set i b) + c.toNat := by
    rw [← byteAt_set_ne f b hij]
    exact byteSum_set c (by simpa using hj)
  have hsum : (b.toNat + c.toNat) % 256 = ((byteAt f i).toNat + (byteAt f j).toNat) % 256 := by
    simpa only [BitVec.toNat_add] using congrArg BitVec.toNat hbc
  omega

/-- Settles O2: each clause is what the change does to the byte sum. -/
theorem checksumCatchesSingleByteErrors : Obligations.ChecksumCatchesSingleByteErrors := by
  refine ⟨byteSum_concat_eq_zero_iff, fun f hf => ⟨?_, ?_, ?_⟩⟩
  · exact fun i b hi hb => byteSum_set_ne_zero hf hi hb
  · exact fun i j b c hi hj hij hbc => (byteSum_set_set hi hj hij hbc).trans hf
  · exact fun g hg => byteSum_perm hg ▸ hf

/-! ## The layout of a frame -/

/-- The length byte of a payload within the limit does not wrap (30_encoding.md R39). -/
theorem packetOf_length_toNat {cmd addr : Byte} {p : List Byte} (hp : p.length ≤ 26) :
    (packetOf cmd p addr).length.toNat = p.length + 3 := by
  simp only [packetOf, Param.lenOverhead, BitVec.toNat_ofNat]
  omega

theorem take_succ_eq_append_byteAt {c : List Byte} {k : Nat} (hk : k < c.length) :
    c.take (k + 1) = c.take k ++ [byteAt c k] := by
  rw [List.take_add_one, List.getElem?_eq_getElem hk, byteAt, List.getD_eq_getElem c 0 hk, Option.toList_some]

/-- The bytes of a chunk up to the end of its frame are the frame's wire fields in order (30_encoding.md R38). -/
theorem take_eq_frameAt_fields {c : List Byte} {n : Nat} (h : n + 5 ≤ c.length) :
    c.take (n + 5) = [(frameAt c (n + 3)).head, (frameAt c (n + 3)).length, (frameAt c (n + 3)).address,
      (frameAt c (n + 3)).command] ++ (frameAt c (n + 3)).data ++ [(frameAt c (n + 3)).checksum] :=
  calc c.take (n + 5)
    _ = c.take (4 + n) ++ [byteAt c (4 + n)] := by
      rw [← take_succ_eq_append_byteAt (by omega)]
      congr 1
      omega
    _ = [byteAt c 0, byteAt c 1, byteAt c 2, byteAt c 3] ++ slice c 4 (4 + n) ++ [byteAt c (4 + n)] := by
      rw [← slice_zero, slice_zero_eq_header_append (by omega)]
    _ = _ := by simp [frameAt, Param.lenOverhead]

/-- A frame that DECODE returns was read from a chunk that passed the structural checks. -/
theorem eq_frameAt_of_decodeFrame_ok {strict : Bool} {c : List Byte} {f : ResponseFrame}
    (h : decodeFrame strict c = .ok f) :
    byteAt c 0 = Param.head ∧ lengthFits (byteAt c 1).toNat c.length = true ∧ f = frameAt c (byteAt c 1).toNat := by
  obtain ⟨-, hd⟩ | ⟨-, -, hd⟩ | ⟨-, -, -, hd⟩ | ⟨-, -, -, -, -, hd⟩ | ⟨-, h0, hfit, -, hd⟩ :=
    decodeFrame_cases strict c
  case inr.inr.inr.inr => exact ⟨h0, hfit, Except.ok.inj (h.symm.trans hd)⟩
  all_goals simp [hd] at h

/-- After the length and the head, the length byte is checked in both checksum modes. -/
theorem decodeFrame_of_not_lengthFits {c : List Byte} (strict : Bool) (h5 : 5 ≤ c.length) (h0 : byteAt c 0 = Param.head)
    (hfit : lengthFits (byteAt c 1).toNat c.length = false) : decodeFrame strict c = .error .lengthMismatch := by
  simp [decodeFrame, Param.minFrame, Nat.not_lt.mpr h5, h0, hfit]

/-- A frame sent, in field order, with its length byte (30_encoding.md R38, R39). -/
theorem frameBytes_layout {cmd addr : Byte} {p : List Byte} (hp : p.length ≤ 26) :
    ∃ L c : Byte, frameBytes cmd addr p = [0xA0, L, addr, cmd] ++ p ++ [c]
      ∧ L.toNat = p.length + 3 ∧ c = checksumOf ([0xA0, L, addr, cmd] ++ p)
      ∧ (frameBytes cmd addr p).length = p.length + 5 ∧ 3 ≤ L.toNat ∧ L.toNat ≤ 29 := by
  have hL := packetOf_length_toNat (cmd := cmd) (addr := addr) hp
  exact ⟨(packetOf cmd p addr).length, (packetOf cmd p addr).checksum, rfl, hL, rfl, length_frameBytes cmd addr p,
    by omega, by omega⟩

/-- A frame received, in field order, with its length byte (30_encoding.md R38 to R40). -/
theorem decodeFrame_layout {strict : Bool} {c : List Byte} {f : ResponseFrame} (h : decodeFrame strict c = .ok f) :
    c.take (f.data.length + 5) = [0xA0, f.length, f.address, f.command] ++ f.data ++ [f.checksum]
      ∧ f.head = 0xA0 ∧ f.length.toNat = f.data.length + 3 ∧ f.data.length + 5 ≤ c.length
      ∧ 3 ≤ f.length.toNat ∧ f.length.toNat ≤ 30 := by
  obtain ⟨h0, hfit, hf⟩ := eq_frameAt_of_decodeFrame_ok h
  obtain ⟨h3, h30, hroom⟩ := (lengthFits_iff _ _).mp hfit
  have hhead : f.head = 0xA0 := by rw [hf]; exact h0
  have hlength : f.length = byteAt c 1 := by rw [hf]; rfl
  have hdata : f.data.length = (byteAt c 1).toNat - 3 := by rw [hf, length_frameAt_data hfit]
  have hL : (byteAt c 1).toNat = f.data.length + 3 := by omega
  have hfields := take_eq_frameAt_fields (c := c) (n := f.data.length) (by omega)
  rw [← hL, ← hf, hhead] at hfields
  exact ⟨hfields, hhead, hlength ▸ hL, by omega, hlength ▸ h3, hlength ▸ h30⟩

/-- Settles O3: the layout sent, the layout received, and the length bytes that spell no frame. -/
theorem framesHaveOneLayout : Obligations.FramesHaveOneLayout := by
  refine ⟨fun _ _ _ => frameBytes_layout, fun _ _ _ => decodeFrame_layout, fun strict c h5 h0 hL => ?_⟩
  refine decodeFrame_of_not_lengthFits strict h5 h0 (Bool.eq_false_iff.mpr fun hfit => ?_)
  obtain ⟨h3, h30, -⟩ := (lengthFits_iff _ _).mp hfit
  omega

end Sys2Proof.Machine

/-! # ENCODE, DECODE, VERIFY and SEND (spec/40_frame_codec.md)

DECODE is one equation per check that fails first and one for a frame that passes; it looks at the bytes of the frame
alone. ENCODE's packet is read back field by field, and SEND hands it out. -/

namespace Sys2Proof.Machine

open Host

/-! ## Reading bytes of a longer sequence -/

theorem byteAt_append_left {s : List Byte} {i : Nat} (t : List Byte) (hi : i < s.length) :
    byteAt (s ++ t) i = byteAt s i :=
  List.getD_append _ _ _ _ hi

theorem byteAt_take {s : List Byte} {i n : Nat} (hi : i < n) : byteAt (s.take n) i = byteAt s i := by
  rw [byteAt, byteAt, List.getD_eq_getElem?_getD, List.getElem?_take_of_lt hi, List.getD_eq_getElem?_getD]

theorem byteAt_concat_length (s : List Byte) (b : Byte) : byteAt (s ++ [b]) s.length = b := by
  simp [byteAt]

theorem slice_append_left {s : List Byte} {b : Nat} (t : List Byte) (a : Nat) (hb : b ≤ s.length) :
    slice (s ++ t) a b = slice s a b := by
  rw [slice, slice, List.take_append_of_le_length hb]

/-! ## DECODE -/

theorem decodeFrame_of_short {c : List Byte} (strict : Bool) (h : c.length < 5) :
    decodeFrame strict c = .error .tooShort :=
  if_pos h

theorem decodeFrame_of_bad_head {c : List Byte} (strict : Bool) (h5 : 5 ≤ c.length) (h0 : byteAt c 0 ≠ Param.head) :
    decodeFrame strict c = .error .badHeader := by
  simp [decodeFrame, Param.minFrame, Nat.not_lt.mpr h5, h0]

/-- Past the structural checks only strict mode looks at the checksum (40_frame_codec.md R56). -/
theorem decodeFrame_of_lengthFits {c : List Byte} (strict : Bool) (h5 : 5 ≤ c.length) (h0 : byteAt c 0 = Param.head)
    (hfit : lengthFits (byteAt c 1).toNat c.length = true) :
    decodeFrame strict c =
      if strict && !(frameAt c (byteAt c 1).toNat).chkOk then .error .checksumMismatch
      else .ok (frameAt c (byteAt c 1).toNat) := by
  simp [decodeFrame, Param.minFrame, Nat.not_lt.mpr h5, h0, hfit]

/-- The frame read from a chunk, with its bytes counted from the length byte `L` (40_frame_codec.md R53). -/
theorem frameAt_eq {L : Nat} (c : List Byte) (hL : 3 ≤ L) :
    frameAt c L =
      { head := byteAt c 0, length := byteAt c 1, address := byteAt c 2, command := byteAt c 3
        data := (c.drop 4).take (L - 3), checksum := byteAt c (L + 1)
        chkCalc := checksumOf (c.take (L + 1))
        chkOk := decide (checksumOf (c.take (L + 1)) = byteAt c (L + 1)) } := by
  have hend : 4 + (L - 3) = L + 1 := by omega
  have hdata : slice c 4 (L + 1) = (c.drop 4).take (L - 3) := by
    rw [slice, List.take_drop, hend]
  simp only [frameAt, Param.lenOverhead, hend, hdata, slice_zero, beq_eq_decide]

/-- Settles O6: the checks in R54's order; past them, strict mode alone refuses a checksum that differs. -/
theorem decodeChecksInOrder : Obligations.DecodeChecksInOrder := by
  refine ⟨rfl, fun strict c => ⟨decodeFrame_of_short strict, decodeFrame_of_bad_head strict, ?_⟩⟩
  rintro h5 h0 L rfl
  have hiff : lengthFits (byteAt c 1).toNat c.length = true ↔
      3 ≤ (byteAt c 1).toNat ∧ (byteAt c 1).toNat - 3 ≤ 27 ∧ (byteAt c 1).toNat + 2 ≤ c.length := by
    rw [lengthFits_iff]
    omega
  constructor
  · intro hbad
    exact decodeFrame_of_not_lengthFits strict h5 h0 (Bool.eq_false_iff.mpr fun hfit => hbad (hiff.mp hfit))
  · intro hgood
    rw [decodeFrame_of_lengthFits strict h5 h0 (hiff.mpr hgood), frameAt_eq c hgood.left, h0]
    constructor
    · intro hstrict hchk
      simp [hstrict, hchk]
    · intro hchk
      refine if_neg fun hrefuse => ?_
      obtain ⟨hstrict, hne⟩ : strict = true ∧ _ := by simpa using hrefuse
      exact hne (hchk hstrict)

/-! ## The bytes DECODE reads (40_frame_codec.md R57) -/

theorem frameAt_append {c : List Byte} {L : Nat} (rest : List Byte) (h5 : 5 ≤ c.length) (hroom : L + 2 ≤ c.length) :
    frameAt (c ++ rest) L = frameAt c L := by
  simp (disch := omega) only [frameAt, Param.lenOverhead, slice_append_left, byteAt_append_left]

/-- Once a chunk holds the whole frame, more bytes do not change whether the length byte fits it. -/
theorem lengthFits_add {L m : Nat} (k : Nat) (hroom : L + 2 ≤ m) : lengthFits L (m + k) = lengthFits L m := by
  rw [Bool.eq_iff_iff, lengthFits_iff, lengthFits_iff]
  omega

theorem decodeFrame_append {c : List Byte} (strict : Bool) (rest : List Byte) (h5 : 5 ≤ c.length)
    (hroom : (byteAt c 1).toNat + 2 ≤ c.length) : decodeFrame strict (c ++ rest) = decodeFrame strict c := by
  have hshort : ¬c.length + rest.length < 5 := by omega
  simp (disch := omega) only [decodeFrame, Param.minFrame, List.length_append, hshort, Nat.not_lt.mpr h5,
    byteAt_append_left, lengthFits_add, frameAt_append]

/-- A chunk that holds the whole frame may be cut anywhere after it. -/
theorem decodeFrame_take {c : List Byte} {n : Nat} (strict : Bool) (h5 : 5 ≤ n) (hframe : (byteAt c 1).toNat + 2 ≤ n)
    (hn : n ≤ c.length) : decodeFrame strict (c.take n) = decodeFrame strict c := by
  have hlen : (c.take n).length = n := List.length_take_of_le hn
  have hbyte : byteAt (c.take n) 1 = byteAt c 1 := byteAt_take (by omega)
  calc decodeFrame strict (c.take n)
    _ = decodeFrame strict (c.take n ++ c.drop n) :=
      (decodeFrame_append strict _ (by rwa [hlen]) (by rwa [hbyte, hlen])).symm
    _ = decodeFrame strict c := by rw [List.take_append_drop]

/-- Settles O7: a chunk is its frame and what follows, and what follows changes nothing. -/
theorem decodeReadsTheFrameOnly : Obligations.DecodeReadsTheFrameOnly := by
  refine fun strict c => ⟨fun h5 hroom rest => decodeFrame_append strict rest h5 hroom, fun f hf => ?_⟩
  obtain ⟨-, -, hL, hlen, -, -⟩ := decodeFrame_layout hf
  obtain ⟨-, -, hframe⟩ := eq_frameAt_of_decodeFrame_ok hf
  have hlength : (byteAt c 1).toNat = f.length.toNat := congrArg (·.length.toNat) hframe.symm
  rw [decodeFrame_take strict (by omega) (by omega) (by omega), hf]

/-! ## The round trip (40_frame_codec.md R59) -/

/-- What a receiver reads from a packet's own wire bytes: its fields, and a checksum that matches. -/
def CommandPacket.received (k : CommandPacket) : ResponseFrame :=
  { head := k.head, length := k.length, address := k.address, command := k.command, data := k.payload
    checksum := k.checksum, chkCalc := k.checksum, chkOk := true }

theorem frameAt_frameBytes (cmd addr : Byte) (p : List Byte) :
    frameAt (frameBytes cmd addr p) (p.length + 3) = (packetOf cmd p addr).received := by
  have hdata : ((frameBytes cmd addr p).drop 4).take p.length = p := List.take_left
  have hend : p.length + 3 + 1 = (frameBody cmd addr p).length := (length_frameBody cmd addr p).symm
  have hbody : (frameBytes cmd addr p).take (p.length + 3 + 1) = frameBody cmd addr p := by
    rw [frameBytes_eq, List.take_left' hend.symm]
  have hchk : byteAt (frameBytes cmd addr p) (p.length + 3 + 1) = checksumOf (frameBody cmd addr p) := by
    rw [frameBytes_eq, hend, byteAt_concat_length]
  rw [frameAt_eq _ (by omega), Nat.add_sub_cancel, hdata, hbody, hchk, decide_eq_true rfl]
  rfl

/-- ENCODE and DECODE share the length rule, so a packet within ENCODE's limit passes every check. -/
theorem decodeFrame_frameBytes (strict : Bool) {cmd addr : Byte} {p : List Byte} (hp : p.length ≤ 26) :
    decodeFrame strict (frameBytes cmd addr p) = .ok (packetOf cmd p addr).received := by
  have hlen := length_frameBytes cmd addr p
  have hL : (byteAt (frameBytes cmd addr p) 1).toNat = p.length + 3 := packetOf_length_toNat hp
  have hfit : lengthFits (byteAt (frameBytes cmd addr p) 1).toNat (frameBytes cmd addr p).length = true :=
    (lengthFits_iff _ _).mpr (by omega)
  rw [decodeFrame_of_lengthFits strict (by omega) rfl hfit, hL, frameAt_frameBytes]
  exact if_neg (by simp [CommandPacket.received])

/-- Settles O8: DECODE of the packet's bytes is the packet as received. -/
theorem decodedCommandIsTheCommand : Obligations.DecodedCommandIsTheCommand := by
  intro strict cmd addr p hp
  exact ⟨packetOf cmd p addr, encodePacket_ok hp, (packetOf cmd p addr).received, decodeFrame_frameBytes strict hp,
    rfl, rfl, rfl, rfl, packetOf_length_toNat (cmd := cmd) (addr := addr) hp, rfl, rfl⟩

/-! ## SEND (40_frame_codec.md R60) -/

theorem exec_of_requestPacket_ok {i : Instr} {s : State} {k : CommandPacket} (hs : sendReady s)
    (hk : requestPacket i = .ok k) : exec i s = .next (sentState k.toBytes s) := by
  obtain ⟨hb, hp⟩ := hs
  rw [exec_eq_send, send_ready hb hp, hk]
  rfl

theorem exec_of_requestPacket_error {i : Instr} {s : State} {r : RefuseReason} (hs : sendReady s)
    (hr : requestPacket i = .error r) : exec i s = .next (refusedState r s) := by
  obtain ⟨hb, hp⟩ := hs
  rw [exec_eq_send, send_ready hb hp, hr]
  rfl

theorem exec_held {s : State} (hb : s.booted = true) (hp : s.rxPending ≠ none) (i : Instr) : exec i s = .next s := by
  obtain ⟨e, he⟩ := Option.ne_none_iff_exists'.mp hp
  rw [exec_eq_send, send_held hb he]

theorem checksumOf_eq_zero_iff (s : List Byte) : checksumOf s = 0 ↔ byteSum s % 256 = 0 := by
  simpa [eq_comm] using (byteSum_concat_eq_zero_iff s 0).symm

/-- Settles O4: the packet's fields, its checksum, and what the request ENCODE does with either answer. -/
theorem encodeBuildsAndSendsThePacket : Obligations.EncodeBuildsAndSendsThePacket := by
  refine fun cmd addr p => ⟨fun hp => ?_, fun hp => ?_⟩
  · exact ⟨packetOf cmd p addr, encodePacket_ok hp, rfl, packetOf_length_toNat hp, rfl, rfl, rfl, rfl,
      length_frameBytes cmd addr p, (byteSum_concat_eq_zero_iff (frameBody cmd addr p) _).mpr rfl,
      checksumOf_eq_zero_iff (frameBody cmd addr p), fun s hs => exec_of_requestPacket_ok hs (encodePacket_ok hp)⟩
  · exact ⟨encodePacket_long hp, fun s hs => exec_of_requestPacket_error hs (encodePacket_long hp)⟩

theorem catalogPacket_ok {code addr : Byte} {n : Nat} {p : List Byte} (hp : p.length = n) (hn : n ≤ 26) :
    catalogPacket code n p addr = .ok (packetOf code p addr) := by
  rw [catalogPacket, if_neg (not_not.mpr hp), encodePacket_ok (hp ▸ hn)]

theorem catalogPacket_wrong_count {code addr : Byte} {n : Nat} {p : List Byte} (hp : p.length ≠ n) :
    catalogPacket code n p addr = .error .badOperandCount :=
  if_pos hp

/-- SET_READER_ADDRESS builds its packet exactly for one new address that is not the broadcast one
(41_command_catalog.md R75). -/
theorem readerAddressPacket_ok {addr : Byte} {p : List Byte} (hp : p.length = 1)
    (hnew : byteAt p 0 ≠ Param.broadcastAddr) : readerAddressPacket p addr = .ok (packetOf 0x73 p addr) := by
  rw [readerAddressPacket, if_neg (not_not.mpr hp), if_neg hnew, encodePacket_ok (by omega)]

theorem readerAddressPacket_error {addr : Byte} {p : List Byte}
    (h : p.length = 1 → byteAt p 0 = Param.broadcastAddr) : ∃ r, readerAddressPacket p addr = .error r := by
  by_cases hp : p.length = 1
  · exact ⟨.addressOutOfRange, by rw [readerAddressPacket, if_neg (not_not.mpr hp), if_pos (h hp)]⟩
  · exact ⟨.badOperandCount, if_pos hp⟩

/-- A request that is admitted builds the packet of its code, payload and address. -/
theorem requestPacket_of_wellFormed {i : Instr} (h : i.wellFormed = true) :
    requestPacket i = .ok (packetOf i.code i.payload i.addr) := by
  cases i with
  | encode c a p => exact encodePacket_ok (of_decide_eq_true h)
  | setReaderAddress a p =>
    obtain ⟨hp, hnew⟩ : p.length = 1 ∧ byteAt p 0 ≠ Param.broadcastAddr := by simpa [Instr.wellFormed] using h
    exact readerAddressPacket_ok hp hnew
  | _ a p => exact catalogPacket_ok (eq_of_beq h) (by decide)

theorem requestPacket_of_not_wellFormed {i : Instr} (h : i.wellFormed = false) : ∃ r, requestPacket i = .error r := by
  cases i with
  | encode c a p => exact ⟨.payloadTooLong, encodePacket_long (Nat.lt_of_not_le (of_decide_eq_false h))⟩
  | setReaderAddress a p => exact readerAddressPacket_error (by simpa [Instr.wellFormed] using h)
  | _ a p => exact ⟨.badOperandCount, catalogPacket_wrong_count (ne_of_beq_false h)⟩

theorem enabled_send_iff (q : Request) (s : State) : enabled (.send q) s = true ↔ sendReady s := by
  simp [enabled, held, sendReady]

/-- A request given by mnemonic needs no decoding. -/
theorem take_send_call {s : State} (hb : s.booted = true) (i : Instr) : take (.send (.call i)) s = exec i s :=
  take_booted hb

/-- Settles O14: what a request builds decides what the step SEND does. -/
theorem sendStepTransmitsTheRequest : Obligations.SendStepTransmitsTheRequest := by
  refine fun i s => ⟨enabled_send_iff _ s, fun hs => ?_, fun hb hp => exec_held hb hp i⟩
  rw [take_send_call hs.left]
  constructor
  · intro hi
    exact exec_of_requestPacket_ok hs (requestPacket_of_wellFormed hi)
  · intro hi
    obtain ⟨r, hr⟩ := requestPacket_of_not_wellFormed hi
    exact ⟨r, exec_of_requestPacket_error hs hr⟩

/-! ## VERIFY (40_frame_codec.md R52) -/

/-- The last byte is the checksum of those before it exactly when all sum to 0. -/
theorem checksumOf_take_eq_last_iff {s : List Byte} (hs : 0 < s.length) :
    checksumOf (s.take (s.length - 1)) = byteAt s (s.length - 1) ↔ byteSum s % 256 = 0 := by
  have hlast : s.take (s.length - 1) ++ [byteAt s (s.length - 1)] = s := by
    rw [← take_succ_eq_append_byteAt (by omega), Nat.sub_add_cancel hs, List.take_length]
  rw [eq_comm, ← byteSum_concat_eq_zero_iff, hlast]

/-- VERIFY's domain lies within what DECODE accepts in its default mode. -/
theorem decodeFrame_of_verifyDomain {s : List Byte} (h : verifyDomain s = true) :
    decodeFrame false s = .ok (frameAt s (byteAt s 1).toNat) := by
  obtain ⟨h0, h3, h30, hlen⟩ := (verifyDomain_iff s).mp h
  exact decodeFrame_of_lengthFits false (by omega) h0 ((lengthFits_iff _ _).mpr ⟨h3, h30, hlen.ge⟩)

/-- Settles O5: VERIFY answers on its domain alone, and no bytes there fail DECODE's structural checks. -/
theorem verifyIsTheZeroSumTest : Obligations.VerifyIsTheZeroSumTest := by
  intro s
  obtain ⟨hout, hnone⟩ | ⟨hin, hsome⟩ := verify_cases s
  · refine ⟨fun hdom => ?_, fun _ => hnone, fun _ _ => hnone⟩
    exact absurd ((verifyDomain_iff s).mpr hdom) (Bool.eq_false_iff.mp hout)
  · have hdom := (verifyDomain_iff s).mp hin
    refine ⟨fun ⟨_, _, _, hlen⟩ => ?_, fun hnot => absurd hdom hnot, fun k hk => ?_⟩
    · simp only [hsome, beq_eq_decide, checksumOf_take_eq_last_iff (s := s) (by omega), and_self]
    · cases hk.symm.trans (decodeFrame_of_verifyDomain hin)

end Sys2Proof.Machine

/-! # The catalog's requests and their frames (spec/41_command_catalog.md)

A well-formed request hands out the frame of its code, address and payload, whose checksum is a difference of bytes; it is
therefore the general ENCODE of its code. The decoder reads from a frame its code, address and payload, and `classify`
keeps all three. -/

namespace Sys2Proof.Machine

open Host

/-! ## The checksum as a difference of bytes -/

/-- Each further byte is taken away from the checksum (30_encoding.md R41). -/
theorem checksumOf_cons (b : Byte) (s : List Byte) : checksumOf (b :: s) = checksumOf s - b := by
  apply BitVec.eq_of_toNat_eq
  have hb : b.toNat < 256 := b.isLt
  rw [BitVec.toNat_sub, checksumOf_toNat_neg, checksumOf_toNat_neg, byteSum_cons]
  omega

theorem checksumOf_append (s t : List Byte) : checksumOf (s ++ t) = t.foldl (· - ·) (checksumOf s) := by
  induction t generalizing s with
  | nil => rw [List.append_nil, List.foldl_nil]
  | cons b t ih =>
    have hswap : checksumOf (s ++ [b]) = checksumOf s - b := by
      rw [← checksumOf_cons]
      exact checksumOf_congr (congrArg (· % 256) (byteSum_perm (List.perm_append_singleton b s)))
    rw [List.append_cons, ih, hswap, List.foldl_cons]

/-- The checksum of the four bytes before the payload. -/
theorem checksumOf_header (L addr cmd : Byte) : checksumOf [Param.head, L, addr, cmd] = 0x60 - L - cmd - addr := by
  have hnil : checksumOf [] = 0 := rfl
  simp only [checksumOf_cons, hnil, Param.head]
  bv_omega

/-- A request's frame with its checksum in closed form. `k` is the constant of the command: what is left when the head, the
length and the code are taken away. -/
theorem encode_eq_closed_form {i : Instr} {L k : Byte} (hL : BitVec.ofNat 8 (i.payload.length + 3) = L)
    (hk : 0x60 - L - i.code = k) :
    encode i = [0xA0, L, i.addr, i.code] ++ i.payload ++ [i.payload.foldl (· - ·) (k - i.addr)] := by
  subst hL hk
  rw [← checksumOf_header, ← checksumOf_append]
  rfl

/-! ## What a catalog request sends -/

theorem exec_of_wellFormed {i : Instr} {s : State} (hs : sendReady s) (hi : i.wellFormed = true) :
    exec i s = .next (sentState (encode i) s) :=
  exec_of_requestPacket_ok hs (requestPacket_of_wellFormed hi)

theorem exec_eq_closed_form {i : Instr} {s : State} {L k : Byte} (hs : sendReady s) (hi : i.wellFormed = true)
    (hL : BitVec.ofNat 8 (i.payload.length + 3) = L) (hk : 0x60 - L - i.code = k) :
    exec i s = .next (sentState
      ([0xA0, L, i.addr, i.code] ++ i.payload ++ [i.payload.foldl (· - ·) (k - i.addr)]) s) := by
  rw [exec_of_wellFormed hs hi, encode_eq_closed_form hL hk]

/-- Settles O10: each command's constant is computed from its code, and its payload is empty. -/
theorem noPayloadCommandsSend : Obligations.NoPayloadCommandsSend := by
  intro a s hs
  refine ⟨?reset, ?firmware, ?region, ?antenna, ?power, ?drm, ?detect⟩
  all_goals exact exec_eq_closed_form hs rfl rfl rfl

/-- Settles O11: as for the commands with no payload, each payload byte taken away in turn. -/
theorem payloadCommandsSend : Obligations.PayloadCommandsSend := by
  intro a p start stop s hs
  refine ⟨?baud, ?antenna, ?power, ?drm, ?detect, ?realtime, ?named, ?region⟩
  all_goals exact exec_eq_closed_form hs rfl rfl rfl

/-- Settles O12: the new address decides whether the request is well-formed. -/
theorem setReaderAddressRefusesBroadcast : Obligations.SetReaderAddressRefusesBroadcast := by
  refine fun a new s hs => ⟨fun hnew => ?_, fun hnew => ?_⟩
  · have hwf : (Instr.setReaderAddress a [new]).wellFormed = true := bne_iff_ne.mpr hnew
    exact exec_eq_closed_form hs hwf rfl rfl
  · subst hnew
    exact exec_of_requestPacket_error hs rfl

/-! ## A catalog request and the ENCODE of its code (41_command_catalog.md R61) -/

theorem catalogArity_code_of_isCatalog {i : Instr} (hi : isCatalog i = true) : ∃ n, catalogArity i.code = some n := by
  cases i with
  | encode => cases hi
  | _ => exact ⟨_, rfl⟩

/-- The operand count is checked before the operands (60_exceptions.md R105). -/
theorem requestPacket_wrong_count {i : Instr} {n : Nat} (hi : isCatalog i = true) (hn : catalogArity i.code = some n)
    (hp : i.payload.length ≠ n) : requestPacket i = .error .badOperandCount := by
  cases i with
  | encode => cases hi
  | setReaderAddress a p => cases hn; exact if_pos hp
  | _ => cases hn; exact catalogPacket_wrong_count hp

/-- SET_READER_ADDRESS of 0xFF is the only catalog request of the right size that is refused. -/
theorem wellFormed_of_catalogArity {i : Instr} (hi : isCatalog i = true)
    (hn : catalogArity i.code = some i.payload.length) (hnot : ∀ a, i ≠ .setReaderAddress a [0xFF]) :
    i.wellFormed = true := by
  cases i with
  | encode => cases hi
  | setReaderAddress a p =>
    obtain ⟨new, rfl⟩ : ∃ new, p = [new] := List.length_eq_one_iff.mp (Option.some.inj hn).symm
    exact bne_iff_ne.mpr fun (hnew : new = 0xFF) => hnot a (by rw [hnew])
  | _ => exact beq_iff_eq.mpr (Option.some.inj hn).symm

theorem payload_length_le_of_wellFormed {i : Instr} (hi : i.wellFormed = true) : i.payload.length ≤ 26 := by
  cases i with
  | encode c a p => exact of_decide_eq_true hi
  | setReaderAddress a p => exact (Laws.FrameSize.setReaderAddress a p hi).left
  | _ => exact (eq_of_beq hi).trans_le (by decide)

/-- Both requests build the packet of the same code, payload and address. -/
theorem exec_eq_exec_encode {i : Instr} (hi : i.wellFormed = true) (s : State) :
    exec i s = exec (.encode i.code i.addr i.payload) s := by
  have hencode : requestPacket (.encode i.code i.addr i.payload) = .ok (packetOf i.code i.payload i.addr) :=
    encodePacket_ok (payload_length_le_of_wellFormed hi)
  rw [exec_eq_send, exec_eq_send, requestPacket_of_wellFormed hi, hencode]

/-- Settles O13: the catalog's size for the code decides between the refusal and the ENCODE. -/
theorem catalogRequestIsItsEncode : Obligations.CatalogRequestIsItsEncode := by
  intro i s hi hs
  obtain ⟨n, hn⟩ := catalogArity_code_of_isCatalog hi
  refine ⟨n, hn, fun hp => ?_, fun hp hnot => ?_⟩
  · exact exec_of_requestPacket_error hs (requestPacket_wrong_count hi hn hp)
  · have hwf : i.wellFormed = true := wellFormed_of_catalogArity hi (hp ▸ hn) hnot
    exact ⟨exec_eq_exec_encode hwf s, exec_of_wellFormed hs hwf⟩

/-! ## Decoding a request's frame (30_encoding.md R44, R45) -/

/-- The decoder reads back the code, the address and the payload of a frame. -/
theorem decode_frameBytes (cmd addr : Byte) {p : List Byte} (hp : p.length ≤ 26) :
    decode (frameBytes cmd addr p) = .ok (classify cmd addr p) := by
  have hlen : (frameBytes cmd addr p).length = p.length + 5 := length_frameBytes cmd addr p
  have hhead : byteAt (frameBytes cmd addr p) 0 = Param.head := rfl
  have hL : (byteAt (frameBytes cmd addr p) 1).toNat = p.length + 3 := packetOf_length_toNat hp
  have hpayload : slice (frameBytes cmd addr p) 4 (p.length + 3 + 1) = p := by
    have hbody : p.length + 3 + 1 = (frameBody cmd addr p).length := (length_frameBody cmd addr p).symm
    rw [slice, frameBytes_eq, List.take_left' hbody.symm]
    rfl
  have hshort : ¬p.length + 5 < 5 := by omega
  have hrange : ¬(p.length + 3 < 3 ∨ 26 + 3 < p.length + 3) := by omega
  simp only [decode, hlen, hhead, hL, hpayload, Param.minFrame, Param.lenOverhead, Param.maxCmdPayload, hshort, hrange,
    Nat.lt_irrefl, ne_eq, not_true_eq_false, if_false]
  rfl

/-- The name given to a frame keeps its code, its address and its payload. -/
theorem classify_fields (cmd addr : Byte) (p : List Byte) :
    (classify cmd addr p).code = cmd ∧ (classify cmd addr p).addr = addr ∧ (classify cmd addr p).payload = p := by
  unfold classify
  split
  · split
    case h_17 => exact ⟨rfl, rfl, rfl⟩
    all_goals next hcode => exact ⟨BitVec.eq_of_toNat_eq hcode.symm, rfl, rfl⟩
  · exact ⟨rfl, rfl, rfl⟩

/-- A code and payload size of the catalog are named by a mnemonic. -/
theorem isCatalog_classify {cmd : Byte} {p : List Byte} (addr : Byte) (h : catalogArity cmd = some p.length) :
    isCatalog (classify cmd addr p) = true := by
  rw [classify, if_pos h]
  split
  case h_17 =>
    have hnone : catalogArity cmd = none := by simp only [catalogArity]
    cases hnone.symm.trans h
  all_goals rfl

theorem encode_classify (cmd addr : Byte) (p : List Byte) :
    encode (classify cmd addr p) = frameBytes cmd addr p := by
  obtain ⟨hcode, haddr, hpayload⟩ := classify_fields cmd addr p
  rw [encode, hcode, haddr, hpayload]

theorem exec_classify {cmd addr : Byte} {p : List Byte} (h : (classify cmd addr p).wellFormed = true) (s : State) :
    exec (classify cmd addr p) s = exec (.encode cmd addr p) s := by
  obtain ⟨hcode, haddr, hpayload⟩ := classify_fields cmd addr p
  rw [exec_eq_exec_encode h, hcode, haddr, hpayload]

/-- Settles O16: only ENCODE is not canonical, and the mnemonic is what `classify` makes of its operands. -/
theorem sharedFrameDecodesToTheMnemonic : Obligations.SharedFrameDecodesToTheMnemonic := by
  intro i hwf hshared
  cases i with
  | encode cmd addr p =>
    have harity : catalogArity cmd = some p.length := bne_eq_false_iff_eq.mp hshared
    exact ⟨classify cmd addr p, decode_frameBytes cmd addr (of_decide_eq_true hwf), isCatalog_classify addr harity,
      encode_classify cmd addr p, exec_classify⟩
  | _ => cases hshared

/-- Settles O17: the decoder evaluated on each word. -/
theorem catalogWordsDecode : Obligations.CatalogWordsDecode := by
  refine ⟨?reset, ?antenna, ?region, ?inventory, ?encode, ?tableFrame, ?tableBaud, ?tableDrm⟩
  all_goals rfl

end Sys2Proof.Machine

/-! # The inventory decoder and the producer (spec/42_inventory_decoder.md)

EXTRACT_TAG is one equation in the data of the frame. RX_CHUNK and PUSH_RETRY are one equation per case of R82 and R84;
what the other steps leave of the pending event and of the events pushed is a case analysis over `Effect`. -/

namespace Sys2Proof.Machine

open Host

/-! ## EXTRACT_TAG (R78 to R81) -/

/-- The tag event that the data bytes spell, with each field counted from its first byte (R79). -/
def tagOfData (d : List Byte) : TagEvent :=
  { ant := byteAt d 0, pc := (d.drop 1).take 2, epc := (d.drop 3).take 12, trailing := d.drop 15 }

theorem slice_eq_take_drop (s : List Byte) (a b : Nat) : slice s a b = (s.drop a).take (b - a) := List.drop_take ..

theorem extractTag_of_short {f : ResponseFrame} (h : f.data.length < 15) : extractTag f = none := by
  simp [extractTag, Param.tagMinData, h]

theorem extractTag_of_long {f : ResponseFrame} (h : 15 ≤ f.data.length) : extractTag f = some (tagOfData f.data) := by
  have hthreshold : 10 < f.data.length := by omega
  simp [extractTag, Param.tagThreshold, Param.tagMinData, Nat.not_le.mpr hthreshold, Nat.not_lt.mpr h, tagOfData,
    slice_eq_take_drop]

/-- The length of the data alone decides, and the data alone make the event (R81). -/
theorem extractTag_eq (f : ResponseFrame) :
    extractTag f = if f.data.length < 15 then none else some (tagOfData f.data) := by
  split
  next hshort => exact extractTag_of_short hshort
  next hlong => exact extractTag_of_long (Nat.le_of_not_lt hlong)

theorem eq_tagOfData_of_extractTag {f : ResponseFrame} {e : TagEvent} (h : extractTag f = some e) :
    15 ≤ f.data.length ∧ e = tagOfData f.data := by
  rw [extractTag_eq] at h
  split at h
  · cases h
  next hlong => exact ⟨Nat.le_of_not_lt hlong, (Option.some.inj h).symm⟩

/-- The fields are all the data in order. -/
theorem tagOfData_fields {d : List Byte} (hd : d ≠ []) :
    (tagOfData d).ant :: ((tagOfData d).pc ++ (tagOfData d).epc ++ (tagOfData d).trailing) = d := by
  cases d with
  | nil => exact absurd rfl hd
  | cons b rest =>
    calc b :: (rest.take 2 ++ (rest.drop 2).take 12 ++ rest.drop 14)
      _ = b :: (rest.take (2 + 12) ++ rest.drop 14) := by rw [List.take_add]
      _ = b :: rest := by rw [List.take_append_drop]

/-- Settles O26: the equation for short and for long data; a decoded frame's widths are the event's shape. -/
theorem extractTagByDataLength : Obligations.ExtractTagByDataLength := by
  intro f
  refine ⟨fun h => extractTag_of_short (by omega), fun _ => extractTag_of_short, extractTag_of_long, ?_⟩
  intro strict c e hd he
  have hwf := extracted_wf hd he
  simp only [TagEvent.wf, Bool.and_eq_true, decide_eq_true_eq] at hwf
  obtain ⟨⟨hpc, hepc⟩, htrailing⟩ := hwf
  obtain ⟨hlong, rfl⟩ := eq_tagOfData_of_extractTag he
  exact ⟨hpc, hepc, htrailing, tagOfData_fields (List.ne_nil_of_length_pos (by omega))⟩

/-! ## RX_CHUNK (R82) -/

theorem enabled_rxChunk_iff (c : List Byte) (s : State) : enabled (.rxChunk c) s = true ↔ sendReady s := by
  simp [enabled, held, sendReady]

theorem take_rxChunk {s : State} (hs : sendReady s) (c : List Byte) : take (.rxChunk c) s = .next (rxChunk c s) := by
  obtain ⟨hb, hp⟩ := hs
  simp [take_booted hb, perform, held, hp]

section
variable {c : List Byte} {s : State} {f : ResponseFrame} {e : TagEvent}

theorem rxChunk_of_error {k : FrameError} (hc : c ≠ []) (hd : decodeFrame s.strict c = .error k) :
    rxChunk c s = recordError k s := by
  simp [rxChunk, hc, hd]

theorem rxChunk_of_no_tag (hc : c ≠ []) (hd : decodeFrame s.strict c = .ok f) (he : extractTag f = none) :
    rxChunk c s = recordFrame f s := by
  simp [rxChunk, acceptFrame, hc, hd, he]

theorem rxChunk_of_room (hc : c ≠ []) (hd : decodeFrame s.strict c = .ok f) (he : extractTag f = some e)
    (hroom : s.fifo.length < 10) : rxChunk c s = pushEvent e (recordFrame f s) := by
  simp [rxChunk, acceptFrame, offerEvent, hc, hd, he, (fifoHasRoom_iff (recordFrame f s)).mpr hroom]

theorem rxChunk_of_full (hc : c ≠ []) (hd : decodeFrame s.strict c = .ok f) (he : extractTag f = some e)
    (hfull : 10 ≤ s.fifo.length) : rxChunk c s = { recordFrame f s with rxPending := some e } := by
  simp [rxChunk, acceptFrame, offerEvent, hc, hd, he, (fifoHasRoom_eq_false_iff (recordFrame f s)).mpr hfull]

end

/-- An error leaves every step enabled that was (60_exceptions.md R102). -/
theorem enabled_recordError (a : Action) (k : FrameError) (s : State) : enabled a (recordError k s) = enabled a s := by
  cases a <;> rfl

/-- Settles O28: one equation of RX_CHUNK per clause; the status output is the error's where there is one. -/
theorem rxChunkDecodesAndPushes : Obligations.RxChunkDecodesAndPushes := by
  refine fun c s => ⟨enabled_rxChunk_iff c s, fun hs => ?_⟩
  rw [take_rxChunk hs]
  refine ⟨fun hc => hc ▸ rfl, fun hc => ?_⟩
  cases hd : decodeFrame s.strict c with
  | error k =>
    refine ⟨some k, ?_, nofun⟩
    rintro _ ⟨⟩
    exact ⟨recordError k s, congrArg Outcome.next (rxChunk_of_error hc hd), rfl, fun a => enabled_recordError a k s⟩
  | ok f =>
    refine ⟨none, nofun, ?_⟩
    rintro _ ⟨⟩
    refine ⟨fun he => congrArg Outcome.next (rxChunk_of_no_tag hc hd he), ?_⟩
    intro e he
    refine ⟨fun hroom => ?_, fun hfull => congrArg Outcome.next (rxChunk_of_full hc hd he hfull)⟩
    simp [rxChunk_of_room hc hd he hroom, pushEvent, recordFrame, record]

/-- By default the checksum byte of a frame that fits is not looked at (40_frame_codec.md R56). -/
theorem decodeFrame_false_of_lengthFits {c : List Byte} (h5 : 5 ≤ c.length) (h0 : byteAt c 0 = Param.head)
    (hfit : lengthFits (byteAt c 1).toNat c.length = true) :
    decodeFrame false c = .ok (frameAt c (byteAt c 1).toNat) :=
  decodeFrame_of_lengthFits false h5 h0 hfit

/-- The EPC bytes stand in a chunk behind four header bytes and the first three of the data. -/
theorem tagOfData_frameAt_epc (c : List Byte) {L : Nat} (hL : 18 ≤ L) :
    (tagOfData (frameAt c L).data).epc = (c.drop 7).take 12 := by
  have hmin : min 12 (L - 3 - 3) = 12 := by omega
  calc (((frameAt c L).data).drop 3).take 12
    _ = (((c.drop 4).take (L - 3)).drop 3).take 12 := by rw [frameAt_eq c (by omega)]
    _ = (c.drop 7).take 12 := by rw [List.drop_take, List.drop_drop, List.take_take, hmin]

/-- Settles O27: such a chunk decodes whatever its checksum byte, and its frame's data are long enough for an event. -/
theorem corruptedTagFrameIsPushed : Obligations.CorruptedTagFrameIsPushed := by
  constructor
  · intro f g hfg
    rw [extractTag_eq, extractTag_eq, hfg]
  · intro c s hs hstrict hroom h0 h18 h30 hlen
    have hfit : lengthFits (byteAt c 1).toNat c.length = true := (lengthFits_iff _ _).mpr ⟨by omega, h30, hlen⟩
    have hd : decodeFrame s.strict c = .ok (frameAt c (byteAt c 1).toNat) :=
      hstrict ▸ decodeFrame_false_of_lengthFits (by omega) h0 hfit
    have hdata := length_frameAt_data hfit
    have he := extractTag_of_long (f := frameAt c (byteAt c 1).toNat) (by omega)
    have hc : c ≠ [] := List.ne_nil_of_length_pos (by omega)
    exact ⟨_, _, take_rxChunk hs c, by rw [rxChunk_of_room hc hd he hroom]; rfl, tagOfData_frameAt_epc c h18⟩

/-! ## PUSH_RETRY (R84) -/

theorem enabled_pushRetry_iff {s : State} (hb : s.booted = true) :
    enabled .pushRetry s = true ↔ (∃ e, s.rxPending = some e) ∧ s.fifo.length < 10 := by
  simp [enabled, hb, pushRetryEnabled_iff]

theorem take_pushRetry {s : State} {e : TagEvent} (hb : s.booted = true) (hp : s.rxPending = some e)
    (hroom : s.fifo.length < 10) : take .pushRetry s = .next { pushEvent e s with rxPending := none } := by
  simp [take_booted hb, perform, pushRetry, hp, (fifoHasRoom_iff s).mpr hroom]

/-- No step but POP makes room, and RX_CHUNK holds an event only while there is none. -/
theorem pushRetryEnabled_eq_false_of_effect {a : Action} {s t : State} (h : Effect a s t) (ha : a ≠ .pop)
    (hs : pushRetryEnabled s = false) : pushRetryEnabled t = false := by
  cases h with
  | pop => exact absurd rfl ha
  | pushRetry => rfl
  | rxPush _ hp => simp [pushRetryEnabled, hp]
  | rxHold _ _ _ _ hfull => simp [pushRetryEnabled, fifoHasRoom_eq_false_iff, hfull]
  | _ => exact hs

/-- Settles O30, by the step's own equation and the effects of the others. -/
theorem pushRetryCompletesThePush : Obligations.PushRetryCompletesThePush := by
  intro s hb
  refine ⟨enabled_pushRetry_iff hb, fun _ => take_pushRetry hb, fun a t ha hs h => ?_⟩
  have hdisabled : pushRetryEnabled s = false := by simpa [enabled, hb] using hs
  rw [enabled, pushRetryEnabled_eq_false_of_effect (effect_of_take h) ha hdisabled, Bool.and_false]

/-! ## The hold (R85) -/

/-- Only PUSH_RETRY clears the pending event. -/
theorem rxPending_of_effect {a : Action} {s t : State} {e : TagEvent} (h : Effect a s t) (ha : a ≠ .pushRetry)
    (hp : s.rxPending = some e) : t.rxPending = some e := by
  cases h with
  | pushRetry => exact absurd rfl ha
  | rxHold _ hnone => exact absurd (hnone.symm.trans hp) nofun
  | _ => exact hp

theorem not_sendReady_of_pending {s : State} {e : TagEvent} (hp : s.rxPending = some e) : ¬sendReady s :=
  fun hs => absurd (hs.right.symm.trans hp) nofun

theorem enabled_pop_iff {s : State} (hb : s.booted = true) :
    enabled .pop s = true ↔ s.ls = .idle ∧ ∃ e rest, s.fifo = e :: rest := by
  simp [enabled, hb, popEnabled_iff, List.ne_nil_iff_exists_cons]

/-- POP takes the head event, and the pending one keeps waiting (43_lock_controller.md R88). -/
theorem moves_pop {s : State} {e : TagEvent} {rest : List TagEvent} (hb : s.booted = true) (hl : s.ls = .idle)
    (hf : s.fifo = e :: rest) :
    ∃ t, Moves .pop s t ∧ t.booted = true ∧ t.fifo = rest ∧ t.rxPending = s.rxPending ∧ t.cur = some e :=
  ⟨pop s, ⟨(enabled_pop_iff hb).mpr ⟨hl, e, rest, hf⟩, take_booted hb⟩, by simp [pop, hl, hf, hb]⟩

/-- Settles O31: SEND and RX_CHUNK need no event pending, which only PUSH_RETRY undoes, and POP makes room for it. -/
theorem heldProducerWaits : Obligations.HeldProducerWaits := by
  intro s e hb hp
  have hhold := not_sendReady_of_pending hp
  refine ⟨fun r => Bool.eq_false_iff.mpr (mt (enabled_send_iff r s).mp hhold),
    fun c => Bool.eq_false_iff.mpr (mt (enabled_rxChunk_iff c s).mp hhold),
    (enabled_pushRetry_iff hb).trans (and_iff_right ⟨e, hp⟩),
    fun a t ha h => rxPending_of_effect (effect_of_take h) ha hp, fun t hdepth hpop h => ?_⟩
  obtain ⟨hl, first, rest, hf⟩ := (enabled_pop_iff hb).mp hpop
  obtain ⟨u, ⟨-, hu⟩, hbu, hfu, hpu, -⟩ := moves_pop hb hl hf
  obtain rfl : u = t := Outcome.next.inj (hu.symm.trans h)
  rw [hf, List.length_cons, ← hfu] at hdepth
  exact (enabled_pushRetry_iff hbu).mpr ⟨⟨e, hpu.trans hp⟩, hdepth⟩

/-! ## Every event enters once (R83) -/

/-- The events a step brings in: the one of the chunk's frame. -/
def tagsOf (strict : Bool) : Action → List TagEvent
  | .rxChunk c =>
    match decodeFrame strict c with
    | .ok f => (extractTag f).toList
    | .error _ => []
  | _ => []

section
variable {strict : Bool} {c : List Byte}

theorem tagsOf_of_ok {f : ResponseFrame} (hd : decodeFrame strict c = .ok f) :
    tagsOf strict (.rxChunk c) = (extractTag f).toList := by simp [tagsOf, hd]

theorem tagsOf_of_error {k : FrameError} (hd : decodeFrame strict c = .error k) :
    tagsOf strict (.rxChunk c) = [] := by simp [tagsOf, hd]

end

/-- A step that brings in events is RX_CHUNK of a chunk that decodes. -/
theorem tagsOf_cases (strict : Bool) (a : Action) :
    tagsOf strict a = [] ∨
    ∃ c f, a = .rxChunk c ∧ decodeFrame strict c = .ok f ∧ tagsOf strict a = (extractTag f).toList := by
  cases a with
  | rxChunk c =>
    cases hd : decodeFrame strict c with
    | error k => exact .inl (tagsOf_of_error hd)
    | ok f => exact .inr ⟨c, f, rfl, hd, tagsOf_of_ok hd⟩
  | _ => exact .inl rfl

/-- The events pushed so far and the pending one behind them. -/
def broughtIn (s : State) : List TagEvent := pushedOf s.hist ++ s.rxPending.toList

/-- RX_CHUNK brings its event in, pushed or pending; PUSH_RETRY only moves the pending event over. -/
theorem broughtIn_of_effect {a : Action} {s t : State} (h : Effect a s t) (ha : enabled a s = true) :
    broughtIn t = broughtIn s ++ tagsOf s.strict a := by
  cases h with
  | disabled _ hn => exact absurd (hn.symm.trans ha) nofun
  | rxError _ _ hd => simp [broughtIn, pushedOf, tagsOf_of_error hd]
  | rxFrame _ _ hd he => simp [broughtIn, pushedOf, tagsOf_of_ok hd, he]
  | rxPush _ hp hd he | rxHold _ hp hd he => simp [broughtIn, pushedOf, tagsOf_of_ok hd, he, hp]
  | rxEmpty => simp [broughtIn, pushedOf, tagsOf_of_error (decodeFrame_of_short s.strict (c := []) (by simp))]
  | pushRetry hp => simp [broughtIn, pushedOf, tagsOf, hp]
  | _ => simp [broughtIn, pushedOf, tagsOf]

/-- Settles O32, with the events that the step brings in. -/
theorem everyTagFrameIsPushedOnce : Obligations.EveryTagFrameIsPushedOnce := by
  intro a s t ha h
  refine ⟨tagsOf s.strict a, ?_, broughtIn_of_effect (effect_of_take h) ha, ?_, fun hnone => ?_⟩
  · obtain hnil | ⟨c, f, -, -, htag⟩ := tagsOf_cases s.strict a
    · simp [hnil]
    · rw [htag]
      exact Option.length_toList_le
  · rintro c f rfl hd
    exact tagsOf_of_ok hd
  · obtain hnil | ⟨c, f, hrx, hd, -⟩ := tagsOf_cases s.strict a
    · exact hnil
    · exact absurd hd (hnone c f hrx)

/-! ## An 11th event (R85) -/

theorem takeAll_cons_of_moves {a : Action} {s t : State} (h : Moves a s t) (as : List Action) :
    takeAll (a :: as) s = takeAll as t := by
  obtain ⟨hen, ht⟩ := h
  simp [takeAll, hen, ht]

/-- RX_CHUNK of a tag frame at a full FIFO holds the event (42_inventory_decoder.md R82). -/
theorem moves_rxChunk_hold {c : List Byte} {s : State} {f : ResponseFrame} {e : TagEvent} (hs : sendReady s)
    (hc : c ≠ []) (hd : decodeFrame s.strict c = .ok f) (he : extractTag f = some e) (hfull : 10 ≤ s.fifo.length) :
    ∃ t, Moves (.rxChunk c) s t ∧ t.booted = true ∧ t.fifo = s.fifo ∧ t.rxPending = some e ∧ t.ls = s.ls :=
  ⟨rxChunk c s, ⟨(enabled_rxChunk_iff c s).mpr hs, take_rxChunk hs c⟩, by
    simp [rxChunk_of_full hc hd he hfull, hs.left]⟩

theorem moves_pushRetry {s : State} {e : TagEvent} (hb : s.booted = true) (hp : s.rxPending = some e)
    (hroom : s.fifo.length < 10) :
    ∃ t, Moves .pushRetry s t ∧ t.fifo = s.fifo ++ [e] ∧ t.rxPending = none ∧ t.cur = s.cur :=
  ⟨_, ⟨(enabled_pushRetry_iff hb).mpr ⟨⟨e, hp⟩, hroom⟩, take_pushRetry hb hp hroom⟩, rfl, rfl, rfl⟩

/-- Settles O33: the chunk's event is held behind ten, POP leaves nine, and PUSH_RETRY puts it behind them. -/
theorem eleventhEventWaitsForAPop : Obligations.EleventhEventWaitsForAPop := by
  intro c s f e first rest hs hl hf hrest hc hd he
  have hfull : 10 ≤ s.fifo.length := by rw [hf, List.length_cons, hrest]
  obtain ⟨t, hchunk, hbt, hft, hpt, hlt⟩ := moves_rxChunk_hold hs hc hd he hfull
  obtain ⟨u, hpop, hbu, hfu, hpu, hcur⟩ := moves_pop hbt (hlt.trans hl) (hft.trans hf)
  have hroom : u.fifo.length < 10 := by rw [hfu, hrest]; decide
  obtain ⟨v, hretry, hfv, hpv, hcv⟩ := moves_pushRetry hbu (hpu.trans hpt) hroom
  constructor
  · refine ⟨t, takeAll_cons_of_moves hchunk [], hft, hpt, Bool.eq_false_iff.mpr fun hen => ?_⟩
    have hlt10 := ((enabled_pushRetry_iff hbt).mp hen).right
    rw [hft] at hlt10
    omega
  · refine ⟨v, ?_, hfu ▸ hfv, hpv, hcv.trans hcur⟩
    calc takeAll [.rxChunk c, .pop, .pushRetry] s
      _ = takeAll [.pop, .pushRetry] t := takeAll_cons_of_moves hchunk _
      _ = takeAll [.pushRetry] u := takeAll_cons_of_moves hpop _
      _ = some v := takeAll_cons_of_moves hretry []

end Sys2Proof.Machine

/-! # The lock controller and time (spec/43_lock_controller.md)

`lockStepDue` names the one step of LC that can be enabled in a state; which steps go before time follows from it. What
the steps do is one equation per enabled step. Over an interleaving, `takeAll_keeps` packages the induction, and each
statement about a wait is one step lemma over `Effect`. -/

namespace Sys2Proof.Machine

open Host

/-! ## The cycle in the history (R95, R99) -/

/-- What is recorded leads from the phase of the old lock state to the phase of the new one. -/
theorem CycleInv.append {s t : State} {g : List Event} (hs : CycleInv s) (hhist : t.hist = s.hist ++ g)
    (hg : cycleRun (phaseOf s.ls) g = some (phaseOf t.ls)) : CycleInv t := by
  rw [CycleInv, hhist, cycleRun_append hs, hg]

/-- The steps of LC record the events of the phase they leave; RD's events stand in any phase, and ENGAGE and
the steps of ENV record nothing and stay in the phase. -/
theorem cycleInv_of_effect {a : Action} {s t : State} (hs : CycleInv s) (h : Effect a s t) : CycleInv t := by
  cases h with
  | boot | disabled | readFails | tickIdle | tickWaiting | tickRelocking | pin => exact hs
  | refuse | transmit | rxEmpty | rxError | rxFrame | rxHold | pushRetry => exact hs.append rfl rfl
  | rxPush => exact hs.append (List.append_assoc _ _ _) rfl
  | pop hl => exact hs.append (List.append_assoc _ _ _) (by rw [hl]; rfl)
  | engage hl => exact hs.append (List.append_nil _).symm (by rw [hl]; rfl)
  | samplePressed hl | sampleReleased hl => exact hs.append rfl (by rw [hl]; rfl)
  | relockDone hl => exact hs.append rfl (by rw [hl]; rfl)

/-- Settles O53, by the step lemma over the effects. -/
theorem stepKeepsCycleInv : Obligations.StepKeepsCycleInv := by
  intro s t hs h
  exact step_keeps (fun _ _ hs => hs) (fun _ _ _ => cycleInv_of_effect) hs h

/-! ## Which step of LC is due (R87 to R94) -/

/-- The step of LC that is due, by lock state. -/
def lockStepDue (s : State) : Option Action :=
  match s.ls with
  | .idle => if s.fifo = [] then none else some .pop
  | .engaged => some .engage
  | .waitingForOverride => if s.pollCnt = 0 then some .sample else none
  | .relocking => if s.relockCnt = 0 then some .relockDone else none

section
variable {s : State}

theorem enabled_engage_iff (hb : s.booted = true) : enabled .engage s = true ↔ s.ls = .engaged := by
  simp [enabled, hb, engageEnabled_iff]

theorem enabled_sample_iff (hb : s.booted = true) :
    enabled .sample s = true ↔ s.ls = .waitingForOverride ∧ s.pollCnt = 0 := by
  simp [enabled, hb, sampleEnabled_iff]

theorem enabled_relockDone_iff (hb : s.booted = true) :
    enabled .relockDone s = true ↔ s.ls = .relocking ∧ s.relockCnt = 0 := by
  simp [enabled, hb, relockDoneEnabled_iff]

theorem isLockStep_of_due {a : Action} (h : lockStepDue s = some a) : isLockStep a = true := by
  unfold lockStepDue at h
  split at h
  · obtain ⟨-, ⟨⟩⟩ := Option.ite_none_left_eq_some.mp h
    rfl
  · exact Option.some.inj h ▸ rfl
  · obtain ⟨-, ⟨⟩⟩ := Option.ite_none_right_eq_some.mp h
    rfl
  · obtain ⟨-, ⟨⟩⟩ := Option.ite_none_right_eq_some.mp h
    rfl

/-- A step of LC is enabled exactly when it is the one that is due. -/
theorem enabled_lockStep_iff {a : Action} (hb : s.booted = true) (ha : isLockStep a = true) :
    enabled a s = true ↔ lockStepDue s = some a := by
  cases a with
  | pop => rw [enabled_pop_iff hb, ← List.ne_nil_iff_exists_cons]; cases hl : s.ls <;> simp [lockStepDue, hl]
  | engage => rw [enabled_engage_iff hb]; cases hl : s.ls <;> simp [lockStepDue, hl]
  | sample => rw [enabled_sample_iff hb]; cases hl : s.ls <;> simp [lockStepDue, hl]
  | relockDone => rw [enabled_relockDone_iff hb]; cases hl : s.ls <;> simp [lockStepDue, hl]
  | _ => cases ha

theorem lcEnabled_eq_false_iff_due : lcEnabled s = false ↔ lockStepDue s = none := by
  rw [lcEnabled_eq_false_iff]
  cases hl : s.ls <;> simp [lockStepDue, hl]

theorem enabled_tick_iff (hb : s.booted = true) : enabled .tick s = true ↔ lockStepDue s = none := by
  simp [enabled, hb, lcEnabled_eq_false_iff_due]

theorem enabled_tick_eq_false {a : Action} (hb : s.booted = true) (h : lockStepDue s = some a) :
    enabled .tick s = false := by
  simp [← Bool.not_eq_true, enabled_tick_iff hb, h]

theorem settled_iff : settled s = true ↔ pushRetryEnabled s = false ∧ lcEnabled s = false := by simp [settled]

theorem forall_lockStep_disabled_iff (hb : s.booted = true) :
    (∀ a : Action, isLockStep a = true → enabled a s = false) ↔ lockStepDue s = none := by
  refine ⟨fun h => Option.eq_none_iff_forall_ne_some.mpr fun a hdue => ?_, fun hnone a ha => ?_⟩
  · have ha := isLockStep_of_due hdue
    exact absurd ((h a ha).symm.trans ((enabled_lockStep_iff hb ha).mpr hdue)) nofun
  · simp [← Bool.not_eq_true, enabled_lockStep_iff hb ha, hnone]

end

/-- Settles O39: two enabled steps of LC are both the one that is due; TICK is enabled where none is. -/
theorem lockStepsGoBeforeTime : Obligations.LockStepsGoBeforeTime := by
  refine fun s hb => ⟨fun a b ha hlb hena henb => ?_, ?_, fun hset => ?_⟩
  · have hdue := (enabled_lockStep_iff hb ha).mp hena
    exact Option.some.inj (hdue.symm.trans ((enabled_lockStep_iff hb hlb).mp henb))
  · cases hdue : lockStepDue s with
    | none => exact .inl ((enabled_tick_iff hb).mpr hdue)
    | some a =>
      have ha := isLockStep_of_due hdue
      exact .inr ⟨a, ha, (enabled_lockStep_iff hb ha).mpr hdue⟩
  · obtain ⟨-, hlc⟩ := settled_iff.mp hset
    refine ⟨(enabled_tick_iff hb).mpr (lcEnabled_eq_false_iff_due.mp hlc), ?_⟩
    simpa only [Nat.pos_iff_ne_zero] using (lcEnabled_eq_false_iff s).mp hlc

/-! ## What the steps do (R88 to R93) -/

section
variable {s : State}

theorem take_pop {e : TagEvent} {rest : List TagEvent} (hb : s.booted = true) (hl : s.ls = .idle)
    (hf : s.fifo = e :: rest) :
    take .pop s = .next
      { s with
        fifo := rest, cur := some e, act := .released, actPin := s.relLevel, ls := .engaged
        hist := s.hist ++ [.popped e, .drive .released] } := by
  simp [take_booted hb, perform, pop, hl, hf, driveAct, record, actLevel]

theorem take_engage (hb : s.booted = true) (hl : s.ls = .engaged) :
    take .engage s = .next { s with ls := .waitingForOverride, pollCnt := 0 } := by
  simp [take_booted hb, perform, engage, hl]

theorem take_sample (hb : s.booted = true) (hl : s.ls = .waitingForOverride) (hc : s.pollCnt = 0) :
    take .sample s = .next (afterSample s.ovrPin (record (.sample s.ovrPin) s)) := by
  simp [take_booted hb, perform, sample, (sampleEnabled_iff s).mpr ⟨hl, hc⟩, getInput]

theorem take_relockDone (hb : s.booted = true) (hl : s.ls = .relocking) (hc : s.relockCnt = 0) :
    take .relockDone s = .next
      { s with
        act := .secured, actPin := !s.relLevel, cur := none, ls := .idle
        hist := s.hist ++ [.drive .secured] } := by
  simp [take_booted hb, perform, relockDone, (relockDoneEnabled_iff s).mpr ⟨hl, hc⟩, driveAct, record, actLevel]

end

/-- A FIFO only loses events to POP. -/
theorem fifo_prefix_of_effect {a : Action} {s t : State} (h : Effect a s t) (ha : a ≠ .pop) :
    s.fifo <+: t.fifo := by
  cases h with
  | pop => exact absurd rfl ha
  | rxPush | pushRetry => exact List.prefix_append _ _
  | _ => exact List.prefix_rfl

/-- Settles O34, by POP's equation; what is in the FIFO stays an initial part of it at every other step. -/
theorem popReleasesTheLock : Obligations.PopReleasesTheLock := by
  refine ⟨fun s hb => ⟨?_, fun e rest hl hf => take_pop hb hl hf⟩, fun a s t ha h => ?_⟩
  · rw [enabled_pop_iff hb, List.ne_nil_iff_exists_cons]
  · exact (fifo_prefix_of_effect (effect_of_take h) ha).length_le

/-- Settles O35: a step of LC is due before ENGAGE and after it, so no time passes. -/
theorem engageArmsTheFirstSample : Obligations.EngageArmsTheFirstSample := by
  refine fun s hb => ⟨enabled_engage_iff hb, fun hl => ⟨?_, _, take_engage hb hl, rfl, ?_, ?_⟩⟩
  · exact enabled_tick_eq_false (a := .engage) hb (by rw [lockStepDue, hl])
  · exact (enabled_sample_iff (by exact hb)).mpr ⟨rfl, rfl⟩
  · exact enabled_tick_eq_false (a := .sample) (by exact hb) rfl

/-- Settles O36, by SAMPLE's equation at each level of the pin. -/
theorem sampleReadsThePinOnce : Obligations.SampleReadsThePinOnce := by
  refine fun s hb => ⟨enabled_sample_iff hb, fun hl hc => ?_⟩
  rw [take_sample hb hl hc]
  constructor
  · intro hv
    simp [hv, afterSample, record, Param.ovrPressedLevel, Param.relockDelayMs]
  · intro hv
    simp [hv, afterSample, record, Param.ovrPressedLevel, Param.pollPeriodMs]

/-- Settles O37, by RELOCK_DONE's equation; in Idle with a waiting event POP is due. -/
theorem relockDoneSecuresTheLock : Obligations.RelockDoneSecuresTheLock := by
  refine fun s hb => ⟨enabled_relockDone_iff hb, fun hl hc => ?_⟩
  refine ⟨_, take_relockDone hb hl hc, rfl, fun hf => ?_, fun hs => ?_⟩
  · obtain ⟨e, rest, hf⟩ := List.ne_nil_iff_exists_cons.mp hf
    exact ⟨(enabled_pop_iff (by exact hb)).mpr ⟨rfl, e, rest, hf⟩,
      enabled_tick_eq_false (a := .pop) (by exact hb) (by simp [lockStepDue, hf])⟩
  · obtain ⟨-, -, hpoll, -⟩ := hs.relocking hl
    exact ⟨rfl, rfl, rfl, hpoll, hc⟩

/-- TICK in each lock state in which it is enabled. -/
theorem take_tick {s : State} (hb : s.booted = true) (h : enabled .tick s = true) :
    (s.ls = .idle ∧ take .tick s = .next { s with now := s.now + 1 }) ∨
    (s.ls = .waitingForOverride ∧ 0 < s.pollCnt ∧
      take .tick s = .next { s with now := s.now + 1, pollCnt := s.pollCnt - 1 }) ∨
    (s.ls = .relocking ∧ 0 < s.relockCnt ∧
      take .tick s = .next { s with now := s.now + 1, relockCnt := s.relockCnt - 1 }) := by
  have htake : take .tick s = .next (tick s) := take_booted hb
  rw [htake]
  obtain ⟨hlc, -⟩ | ⟨-, hl, -, ht⟩ | ⟨-, hl, hc, ht⟩ | ⟨-, hl, hc, ht⟩ := tick_cases s
  · simp [enabled, hlc] at h
  · exact .inl ⟨hl, congrArg _ ht⟩
  · exact .inr (.inl ⟨hl, hc, congrArg _ ht⟩)
  · exact .inr (.inr ⟨hl, hc, congrArg _ ht⟩)

/-- Settles O38: TICK is enabled where no step of LC is due, and counts down where the present state counts. -/
theorem tickCountsDown : Obligations.TickCountsDown := by
  refine fun s hb => ⟨(enabled_tick_iff hb).trans (forall_lockStep_disabled_iff hb).symm, fun h => ?_⟩
  obtain ⟨hl, ht⟩ | ⟨hl, hc, ht⟩ | ⟨hl, hc, ht⟩ := take_tick hb h
  · simp [hl, ht]
  · simp [hl, ht, hc]
  · simp [hl, ht, hc]

/-! ## The wait for a push (R87) -/

theorem lockStepDue_of_idle_empty {s : State} (hl : s.ls = .idle) (hf : s.fifo = []) : lockStepDue s = none := by
  simp [lockStepDue, hl, hf]

/-- With nothing scheduled and nothing to do, the machine's step is TICK (the order of 95_test_vectors.md L3). -/
theorem step_of_settled {s : State} (hb : s.booted = true) (hset : settled s = true) (hq : s.sched = []) :
    step s = take .tick s := by
  obtain ⟨hretry, hlc⟩ := settled_iff.mp hset
  simp only [lcEnabled, Bool.or_eq_false_iff] at hlc
  obtain ⟨⟨⟨hpop, hengage⟩, hsample⟩, hrelock⟩ := hlc
  have hdefault : defaultAction s = .tick := by
    simp [defaultAction, hb, hpop, hengage, hsample, hrelock, hretry]
  simp [step, selectAction, hq, hdefault]

/-- From Idle with an empty FIFO a step either leaves both as they are or pushes one event. -/
theorem idle_empty_of_effect {a : Action} {s t : State} (h : Effect a s t) (hl : s.ls = .idle) (hf : s.fifo = []) :
    t.ls = .idle ∧ (t.fifo = [] ∨
      (((∃ c, a = .rxChunk c) ∨ a = .pushRetry) ∧ ∃ e g, t.fifo = [e] ∧ t.hist = s.hist ++ g ++ [.pushed e])) := by
  cases h with
  | rxPush => exact ⟨hl, .inr ⟨.inl ⟨_, rfl⟩, _, [_], congrArg (· ++ [_]) hf, rfl⟩⟩
  | pushRetry => exact ⟨hl, .inr ⟨.inr rfl, _, [], congrArg (· ++ [_]) hf, by simp⟩⟩
  | pop _ hf' => exact absurd (hf.symm.trans hf') nofun
  | engage hl' | samplePressed hl' | sampleReleased hl' | relockDone hl' => exact absurd (hl.symm.trans hl') nofun
  | _ => exact ⟨hl, .inl hf⟩

/-- Boot is not undone. -/
theorem booted_of_effect {a : Action} {s t : State} (h : Effect a s t) (hb : s.booted = true) : t.booted = true := by
  cases h with
  | boot => rfl
  | _ => exact hb

/-- Settles O25: no step of LC is due before a push, and POP is due after it. -/
theorem idleWaitsForAPush : Obligations.IdleWaitsForAPush := by
  intro s hb hl hf
  have hnone := lockStepDue_of_idle_empty hl hf
  refine ⟨(forall_lockStep_disabled_iff hb).mpr hnone, fun hp hq => ?_, fun a t h => ?_⟩
  · have hset : settled s = true :=
      settled_iff.mpr ⟨by simp [pushRetryEnabled, hp], lcEnabled_eq_false_iff_due.mpr hnone⟩
    rw [step_of_settled hb hset hq]
    obtain ⟨-, ht⟩ | ⟨hl', -⟩ | ⟨hl', -⟩ := take_tick hb ((enabled_tick_iff hb).mpr hnone)
    · exact ht
    · exact absurd (hl.symm.trans hl') nofun
    · exact absurd (hl.symm.trans hl') nofun
  · have hef := effect_of_take h
    have hbt := booted_of_effect hef hb
    obtain ⟨hlt, hft | ⟨ha, e, g, hft, hhist⟩⟩ := idle_empty_of_effect hef hl hf
    · exact ⟨hlt, .inl ⟨hft, (forall_lockStep_disabled_iff hbt).mpr (lockStepDue_of_idle_empty hlt hft)⟩⟩
    · exact ⟨hlt, .inr ⟨ha, e, g, hft, hhist, (enabled_pop_iff hbt).mpr ⟨hlt, e, [], hft⟩⟩⟩

/-! ## The override pin (R96) -/

/-- The operation does the same at both levels of the override pin, and leaves the level as it is. -/
def IgnoresPin (f : State → State) : Prop := ∀ v s, f (withPin v s) = withPin v (f s)

theorem IgnoresPin.comp {f g : State → State} (hf : IgnoresPin f) (hg : IgnoresPin g) :
    IgnoresPin fun s => f (g s) := by
  intro v s
  exact (congrArg f (hg v s)).trans (hf v (g s))

theorem IgnoresPin.ite {p : State → Prop} [∀ s, Decidable (p s)] {f g : State → State}
    (hp : ∀ v s, p (withPin v s) ↔ p s) (hf : IgnoresPin f) (hg : IgnoresPin g) :
    IgnoresPin fun s => if p s then f s else g s := by
  intro v s
  simp only [hp v s, apply_ite (withPin v), hf v s, hg v s]

theorem ignoresPin_id : IgnoresPin fun s => s := fun _ _ => rfl

theorem ignoresPin_record (e : Event) : IgnoresPin (record e) := fun _ _ => rfl

theorem ignoresPin_sendBuilt (k : Except RefuseReason CommandPacket) : IgnoresPin (sendBuilt k) := by
  cases k <;> exact fun _ _ => rfl

theorem ignoresPin_offerEvent (e : TagEvent) : IgnoresPin (offerEvent e) :=
  .ite (fun _ _ => Iff.rfl) (fun _ _ => rfl) (fun _ _ => rfl)

theorem ignoresPin_acceptFrame (f : ResponseFrame) : IgnoresPin (acceptFrame f) := by
  have hrec : IgnoresPin (recordFrame f) := fun _ _ => rfl
  unfold acceptFrame
  cases extractTag f with
  | none => exact hrec
  | some e => exact (ignoresPin_offerEvent e).comp hrec

theorem ignoresPin_rxChunk (c : List Byte) : IgnoresPin (rxChunk c) := by
  refine .ite (fun _ _ => Iff.rfl) (ignoresPin_record _) fun v s => ?_
  have hstrict : (withPin v s).strict = s.strict := rfl
  rw [hstrict]
  cases decodeFrame s.strict c with
  | error k => rfl
  | ok f => exact ignoresPin_acceptFrame f v s

theorem ignoresPin_pushRetry : IgnoresPin pushRetry := by
  intro v s
  have hp : (withPin v s).rxPending = s.rxPending := rfl
  have hroom : fifoHasRoom (withPin v s) = fifoHasRoom s := rfl
  rw [pushRetry, pushRetry, hp, hroom]
  cases s.rxPending with
  | none => rfl
  | some e => cases fifoHasRoom s <;> rfl

theorem ignoresPin_pop : IgnoresPin pop := by
  rintro v ⟨fifo, ls, -⟩
  cases ls <;> cases fifo <;> rfl

theorem ignoresPin_engage : IgnoresPin engage := by
  rintro v ⟨-, ls, -⟩
  cases ls <;> rfl

theorem ignoresPin_relockDone : IgnoresPin relockDone :=
  .ite (fun _ _ => Iff.rfl) (fun _ _ => rfl) ignoresPin_id

theorem ignoresPin_tick : IgnoresPin tick :=
  .ite (fun _ _ => Iff.rfl) ignoresPin_id (fun _ _ => rfl)

/-- A SAMPLE that is not enabled does nothing, and so does not read the pin either. -/
theorem sample_withPin {s : State} (h : ¬(s.ls = .waitingForOverride ∧ s.pollCnt = 0)) (v : Bool) :
    sample (withPin v s) = withPin v (sample s) := by
  have hs : sampleEnabled s = false := by simpa [sampleEnabled] using h
  have hv : sampleEnabled (withPin v s) = false := hs
  simp [sample, hs, hv]

theorem exec_withPin (i : Instr) (v : Bool) (s : State) : exec i (withPin v s) = mapNext (withPin v) (exec i s) := by
  have hbooted : (withPin v s).booted = s.booted := rfl
  have hheld : held (withPin v s) = held s := rfl
  rw [exec_eq_send, exec_eq_send, send, send, hbooted, hheld, ignoresPin_sendBuilt]
  split
  · rfl
  · split <;> rfl

theorem enabled_withPin (a : Action) (v : Bool) (s : State) : enabled a (withPin v s) = enabled a s := by
  cases a <;> rfl

theorem perform_withPin {a : Action} {s : State} (hpin : ∀ w, a ≠ .pin w)
    (hsample : ¬(a = .sample ∧ s.ls = .waitingForOverride ∧ s.pollCnt = 0)) (v : Bool) :
    perform a (withPin v s) = mapNext (withPin v) (perform a s) := by
  cases a with
  | boot | readFails => rfl
  | pin w => exact absurd rfl (hpin w)
  | send r =>
    simp only [perform, sendRequest]
    cases fetch r with
    | ok i => exact exec_withPin i v s
    | error e => rfl
  | rxChunk c =>
    exact congrArg Outcome.next
      (IgnoresPin.ite (p := fun s => held s = true) (fun _ _ => Iff.rfl) ignoresPin_id (ignoresPin_rxChunk c) v s)
  | pushRetry => exact congrArg Outcome.next (ignoresPin_pushRetry v s)
  | pop => exact congrArg Outcome.next (ignoresPin_pop v s)
  | engage => exact congrArg Outcome.next (ignoresPin_engage v s)
  | sample => exact congrArg Outcome.next (sample_withPin (fun h => hsample ⟨rfl, h⟩) v)
  | relockDone => exact congrArg Outcome.next (ignoresPin_relockDone v s)
  | tick => exact congrArg Outcome.next (ignoresPin_tick v s)

/-- Settles O41: each operation but an enabled SAMPLE ignores the pin, and so do the step it makes up and the boot mark
before it. -/
theorem onlySampleReadsThePin : Obligations.OnlySampleReadsThePin := by
  intro a v s
  refine ⟨enabled_withPin a v s, fun hpin hsample => ?_⟩
  have hbooted : (withPin v s).booted = s.booted := rfl
  rw [take, take, hbooted]
  split
  · rfl
  · exact perform_withPin hpin hsample v

/-! ## Interleavings -/

/-- The first step of an interleaving, and the rest. -/
theorem exists_moves_of_takeAll_cons {a : Action} {as : List Action} {s t : State} (h : takeAll (a :: as) s = some t) :
    ∃ u, Moves a s u ∧ takeAll as u = some t := by
  simp only [takeAll] at h
  split at h
  · next hen =>
    split at h
    · next u hu => exact ⟨u, ⟨hen, hu⟩, h⟩
    · cases h
  · cases h

/-- What every step of an interleaving keeps holds at its end. -/
theorem takeAll_keeps {P : State → Prop} {as : List Action} {s t : State}
    (hstep : ∀ a ∈ as, ∀ u v, P u → Effect a u v → P v) (hs : P s) (h : takeAll as s = some t) : P t := by
  induction as generalizing s with
  | nil => exact Option.some.inj h ▸ hs
  | cons a as ih =>
    obtain ⟨u, ⟨-, hu⟩, hrest⟩ := exists_moves_of_takeAll_cons h
    obtain ⟨hfirst, hstep⟩ := List.forall_mem_cons.mp hstep
    exact ih hstep (hfirst s u hs (effect_of_take hu)) hrest

/-- What every step keeps, but for a sample that reads pressed, holds until there is one. -/
theorem takeAll_keeps_until_pressed {P : State → Prop} {as : List Action} {s t : State}
    (hstep : ∀ a u v g, P u → Effect a u v → v.hist = u.hist ++ g → Event.sample false ∉ g → P v) (hs : P s)
    (h : takeAll as s = some t) : ∃ g, t.hist = s.hist ++ g ∧ (Event.sample false ∉ g → P t) := by
  refine takeAll_keeps (P := fun u => ∃ g, u.hist = s.hist ++ g ∧ (Event.sample false ∉ g → P u)) ?_
    ⟨[], (List.append_nil _).symm, fun _ => hs⟩ h
  rintro a - u v ⟨g, hu, hP⟩ hef
  obtain ⟨g', hv, -⟩ := hef.hist_refused
  refine ⟨g ++ g', by rw [hv, hu, List.append_assoc], fun hnot => ?_⟩
  obtain ⟨hg, hg'⟩ := not_or.mp (mt List.mem_append.mpr hnot)
  exact hstep a u v g' (hP hg) hef hv hg'

/-! ## The wait for the override (R97) -/

/-- LC waits for the override as it did in `s`, and the events of `s` are still in the FIFO. -/
def StillWaiting (s u : State) : Prop :=
  u.ls = .waitingForOverride ∧ u.act = s.act ∧ u.actPin = s.actPin ∧ u.cur = s.cur ∧ s.fifo <+: u.fifo

/-- Of the steps that can be taken in WaitingForOverride, only a SAMPLE that reads pressed ends the wait. -/
theorem StillWaiting.of_effect {a : Action} {s u v : State} {g : List Event} (hu : StillWaiting s u)
    (h : Effect a u v) (hhist : v.hist = u.hist ++ g) (hg : Event.sample false ∉ g) : StillWaiting s v := by
  obtain ⟨hl, hact, hpin, hcur, hfifo⟩ := hu
  cases h with
  | pop hl' | engage hl' | relockDone hl' => exact absurd (hl.symm.trans hl') nofun
  | samplePressed =>
    obtain rfl := List.append_cancel_left hhist
    exact absurd (List.mem_singleton_self _) hg
  | rxPush | pushRetry => exact ⟨hl, hact, hpin, hcur, hfifo.trans (List.prefix_append _ _)⟩
  | _ => exact ⟨hl, hact, hpin, hcur, hfifo⟩

/-- Settles O42, by the step lemma of the wait. -/
theorem waitsForOverrideForEver : Obligations.WaitsForOverrideForEver := by
  intro as s t h hl
  exact takeAll_keeps_until_pressed (P := StillWaiting s) (fun _ _ _ _ hu => hu.of_effect)
    ⟨hl, rfl, rfl, rfl, List.prefix_rfl⟩ h

/-! ## The delays (R94, R98) -/

/-- LC is in the re-lock delay it was in at `s`: each millisecond of time since is one off the counter. -/
def StillRelocking (s u : State) : Prop :=
  u.ls = .relocking ∧ u.now + u.relockCnt = s.now + s.relockCnt ∧ u.act = s.act

theorem StillRelocking.of_effect {a : Action} {s u v : State} (hu : StillRelocking s u) (h : Effect a u v)
    (ha : a ≠ .relockDone) : StillRelocking s v := by
  obtain ⟨hl, hsum, hact⟩ := hu
  cases h with
  | relockDone => exact absurd rfl ha
  | pop hl' | engage hl' | samplePressed hl' | tickIdle hl' | tickWaiting hl' =>
    exact absurd (hl.symm.trans hl') nofun
  | tickRelocking _ hc =>
    have : u.now + 1 + (u.relockCnt - 1) = s.now + s.relockCnt := by omega
    exact ⟨hl, this, hact⟩
  | _ => exact ⟨hl, hsum, hact⟩

/-- LC is in the poll period it was in at `s`: each millisecond of time since is one off the counter. -/
def StillPolling (s u : State) : Prop :=
  u.ls = .waitingForOverride ∧ u.now + u.pollCnt = s.now + s.pollCnt ∧ u.act = s.act

theorem StillPolling.of_effect {a : Action} {s u v : State} (hu : StillPolling s u) (h : Effect a u v)
    (ha : a ≠ .sample) : StillPolling s v := by
  obtain ⟨hl, hsum, hact⟩ := hu
  cases h with
  | samplePressed | sampleReleased => exact absurd rfl ha
  | pop hl' | engage hl' | relockDone hl' | tickIdle hl' | tickRelocking hl' =>
    exact absurd (hl.symm.trans hl') nofun
  | tickWaiting _ hc =>
    have : u.now + 1 + (u.pollCnt - 1) = s.now + s.pollCnt := by omega
    exact ⟨hl, this, hact⟩
  | _ => exact ⟨hl, hsum, hact⟩

/-- Settles O44, by the step lemma of each delay. -/
theorem delaysAreExact : Obligations.DelaysAreExact := by
  refine fun as s t h => ⟨fun hl hnot => ?_, fun hl hnot => ?_⟩
  · exact takeAll_keeps (P := StillRelocking s)
      (fun _ ha _ _ hu hef => hu.of_effect hef (ne_of_mem_of_not_mem ha hnot)) ⟨hl, rfl, rfl⟩ h
  · exact takeAll_keeps (P := StillPolling s)
      (fun _ ha _ _ hu hef => hu.of_effect hef (ne_of_mem_of_not_mem ha hnot)) ⟨hl, rfl, rfl⟩ h

/-- By lock state, after a POP at time `t₀`: which samples the history gained behind `past`, and when the counter of the
state ends. -/
def Releasing (t₀ : Nat) (past : List Bool) (s : State) : Prop :=
  match s.ls with
  | .idle => False
  | .engaged => samplesOf s.hist = past ∧ s.now = t₀
  | .waitingForOverride =>
    ∃ n, samplesOf s.hist = past ++ List.replicate n true ∧ s.now + s.pollCnt = t₀ + 100 * n
  | .relocking =>
    ∃ n, samplesOf s.hist = past ++ (List.replicate n true ++ [false]) ∧ s.now + s.relockCnt = t₀ + (100 * n + 4000)

section
variable {t₀ : Nat} {past : List Bool} {s : State}

theorem releasing_idle (hl : s.ls = .idle) : ¬Releasing t₀ past s := by simp [Releasing, hl]

theorem releasing_engaged_iff (hl : s.ls = .engaged) :
    Releasing t₀ past s ↔ samplesOf s.hist = past ∧ s.now = t₀ := by simp [Releasing, hl]

theorem releasing_waiting_iff (hl : s.ls = .waitingForOverride) :
    Releasing t₀ past s ↔
      ∃ n, samplesOf s.hist = past ++ List.replicate n true ∧ s.now + s.pollCnt = t₀ + 100 * n := by
  simp [Releasing, hl]

theorem releasing_relocking_iff (hl : s.ls = .relocking) :
    Releasing t₀ past s ↔
      ∃ n, samplesOf s.hist = past ++ (List.replicate n true ++ [false])
        ∧ s.now + s.relockCnt = t₀ + (100 * n + 4000) := by
  simp [Releasing, hl]

end

/-- `Releasing` looks at the lock state, the samples, the time and the two counters. -/
theorem Releasing.congr {t₀ : Nat} {past : List Bool} {s t : State} (hs : Releasing t₀ past s) (hl : t.ls = s.ls)
    (hsamples : samplesOf t.hist = samplesOf s.hist) (hpoll : t.pollCnt = s.pollCnt)
    (hrelock : t.relockCnt = s.relockCnt) (hnow : t.now = s.now) : Releasing t₀ past t := by
  simpa only [Releasing, hl, hsamples, hpoll, hrelock, hnow] using hs

/-- The sampling and the re-lock delay go on until RELOCK_DONE: ENGAGE starts the first poll at once, a SAMPLE that
reads not pressed adds 100 ms, one that reads pressed 4000 ms, and TICK moves one millisecond from the counter to the time. -/
theorem Releasing.of_effect {t₀ : Nat} {past : List Bool} {a : Action} {s t : State} (hs : Releasing t₀ past s)
    (h : Effect a s t) (ha : a ≠ .relockDone) : Releasing t₀ past t := by
  cases h with
  | relockDone => exact absurd rfl ha
  | pop hl | tickIdle hl => exact absurd hs (releasing_idle hl)
  | engage hl =>
    obtain ⟨hsamples, hnow⟩ := (releasing_engaged_iff hl).mp hs
    exact (releasing_waiting_iff rfl).mpr ⟨0, by simpa using hsamples, hnow⟩
  | samplePressed hl hc =>
    obtain ⟨n, hsamples, hsum⟩ := (releasing_waiting_iff hl).mp hs
    refine (releasing_relocking_iff rfl).mpr ⟨n, by simp [hsamples, samplesOf], ?_⟩
    simp only
    omega
  | sampleReleased hl hc =>
    obtain ⟨n, hsamples, hsum⟩ := (releasing_waiting_iff hl).mp hs
    refine (releasing_waiting_iff (by exact hl)).mpr ⟨n + 1, by simp [hsamples, samplesOf, List.replicate_succ'], ?_⟩
    simp only
    omega
  | tickWaiting hl hc =>
    obtain ⟨n, hsamples, hsum⟩ := (releasing_waiting_iff hl).mp hs
    refine (releasing_waiting_iff (by exact hl)).mpr ⟨n, hsamples, ?_⟩
    simp only
    omega
  | tickRelocking hl hc =>
    obtain ⟨n, hsamples, hsum⟩ := (releasing_relocking_iff hl).mp hs
    refine (releasing_relocking_iff (by exact hl)).mpr ⟨n, hsamples, ?_⟩
    simp only
    omega
  | _ => exact hs.congr rfl (by simp [samplesOf]) rfl rfl rfl

/-- The actuator is released, and the pin is at the level that releases the lock. -/
def Released (s : State) : Prop := s.act = .released ∧ s.actPin = s.relLevel

/-- Only RELOCK_DONE secures the actuator (R92). -/
theorem Released.of_effect {a : Action} {s t : State} (hs : Released s) (h : Effect a s t) (ha : a ≠ .relockDone) :
    Released t := by
  cases h with
  | relockDone => exact absurd rfl ha
  | pop => exact ⟨rfl, rfl⟩
  | _ => exact hs

/-- `u` comes after a POP at `s`, with no RELOCK_DONE since. -/
def SincePop (s u : State) : Prop :=
  Releasing s.now (samplesOf s.hist) u ∧ Released u ∧ s.hist <+: u.hist

/-- POP releases the actuator, and no sample is taken yet (R88). -/
theorem sincePop_of_pop {s t : State} (h : Moves .pop s t) : SincePop s t := by
  obtain ⟨hen, ht⟩ := h
  have hef := effect_of_take ht
  cases hef with
  | disabled _ ha => exact absurd (ha.symm.trans hen) nofun
  | pop =>
    refine ⟨(releasing_engaged_iff rfl).mpr ⟨by simp [samplesOf], rfl⟩, ⟨rfl, rfl⟩, ?_⟩
    exact (List.prefix_append _ _).trans (List.prefix_append _ _)

theorem SincePop.of_effect {a : Action} {s u v : State} (hu : SincePop s u) (h : Effect a u v) (ha : a ≠ .relockDone) :
    SincePop s v := by
  obtain ⟨hrel, hact, hhist⟩ := hu
  obtain ⟨g, hg, -⟩ := h.hist_refused
  exact ⟨hrel.of_effect h ha, hact.of_effect h ha, hg ▸ hhist.trans (List.prefix_append _ _)⟩

theorem sincePop_of_takeAll {as : List Action} {s u : State} (h : takeAll (.pop :: as) s = some u)
    (hnot : Action.relockDone ∉ as) : SincePop s u := by
  obtain ⟨v, hpop, hrest⟩ := exists_moves_of_takeAll_cons h
  exact takeAll_keeps (P := SincePop s) (fun _ ha _ _ hu hef => hu.of_effect hef (ne_of_mem_of_not_mem ha hnot))
    (sincePop_of_pop hpop) hrest

/-- RELOCK_DONE takes no time and secures the actuator (R92). -/
theorem moves_relockDone {u t : State} (h : Moves .relockDone u t) :
    u.ls = .relocking ∧ u.relockCnt = 0 ∧ t.now = u.now ∧ t.act = .secured ∧ t.actPin = !t.relLevel := by
  obtain ⟨hen, ht⟩ := h
  have hef := effect_of_take ht
  cases hef with
  | disabled _ ha => exact absurd (ha.symm.trans hen) nofun
  | relockDone hl hc => exact ⟨hl, hc, rfl, rfl, rfl⟩

/-- Settles O46: an enabled SAMPLE or RELOCK_DONE has its counter at 0, so the time is the sum that `Releasing` gives. -/
theorem releaseDuration : Obligations.ReleaseDuration := by
  intro as s u h hnot
  obtain ⟨hrel, ⟨hact, hpin⟩, g, hg⟩ := sincePop_of_takeAll h hnot
  have hsamples : samplesOf u.hist = samplesOf s.hist ++ samplesOf g := by rw [← hg, samplesOf_append]
  refine ⟨g, hg.symm, hact, hpin, fun hen => ?_, fun t ht => ?_⟩
  · obtain ⟨-, hl, hc⟩ : u.booted = true ∧ u.ls = .waitingForOverride ∧ u.pollCnt = 0 := by
      simpa [enabled, sampleEnabled_iff] using hen
    obtain ⟨n, hn, hsum⟩ := (releasing_waiting_iff hl).mp hrel
    have hlength : (samplesOf g).length = n := by
      rw [List.append_cancel_left (hsamples.symm.trans hn), List.length_replicate]
    omega
  · obtain ⟨hl, hc, hnow, hsecured⟩ := moves_relockDone ht
    obtain ⟨n, hn, hsum⟩ := (releasing_relocking_iff hl).mp hrel
    refine ⟨n + 1, Nat.le_add_left 1 n, List.append_cancel_left (hsamples.symm.trans hn), ?_, hsecured⟩
    omega

end Sys2Proof.Machine

/-! # The agents, their interleavings and refusals (spec/60_exceptions.md)

An enabled step does the same whatever is scheduled behind it, so the machine's step on a schedule is the
step at its head. Which step may write a field is read off `Effect`. The return to Idle follows from a rank, the number
of LC's steps and TICKs still to come while the pin is pressed: fairness takes the one that is due. -/

namespace Sys2Proof.Machine

open Host

/-! ## Enabled steps -/

theorem booted_of_enabled {a : Action} {s : State} (ha : a ≠ .boot) (h : enabled a s = true) : s.booted = true := by
  cases a with
  | boot => exact absurd rfl ha
  | pin v => exact h
  | _ => exact (Bool.and_eq_true_iff.mp h).left

theorem take_boot (s : State) : take .boot s = .next { s with booted := true } := if_neg fun h => h.right rfl

/-- The state with another schedule. -/
def withSched (q : List Action) (s : State) : State := { s with sched := q }

theorem enabled_withSched (a : Action) (q : List Action) (s : State) : enabled a (withSched q s) = enabled a s := by
  cases a <;> rfl

theorem tick_withSched (q : List Action) (s : State) : tick (withSched q s) = withSched q (tick s) := by
  have hlc : lcEnabled (withSched q s) = lcEnabled s := rfl
  rw [tick, tick, hlc]
  split <;> rfl

/-- An enabled step has the same effect whatever is scheduled behind it. -/
theorem take_withSched_of_moves {a : Action} {s t : State} (h : Moves a s t) (q : List Action) :
    take a (withSched q s) = .next (withSched q t) := by
  obtain ⟨hen, ht⟩ := h
  have hef := effect_of_take ht
  obtain rfl | ha := eq_or_ne a .boot
  · obtain rfl := Outcome.next.inj ((take_boot s).symm.trans ht)
    exact take_boot (withSched q s)
  have hbs := booted_of_enabled ha hen
  have hb : (withSched q s).booted = true := hbs
  cases hef with
  | boot => exact absurd rfl ha
  | disabled _ hn => exact absurd (hn.symm.trans hen) nofun
  | refuse hq hp hr =>
    simp only [take_booted hb, perform, sendRequest, hq]
    exact exec_of_requestPacket_error ⟨hb, hp⟩ hr
  | transmit hq hp hk =>
    simp only [take_booted hb, perform, sendRequest, hq]
    exact exec_of_requestPacket_ok ⟨hb, hp⟩ hk
  | rxEmpty hp => exact take_rxChunk ⟨hb, hp⟩ []
  | rxError hc hp hd => exact (take_rxChunk ⟨hb, hp⟩ _).trans (congrArg _ (rxChunk_of_error hc hd))
  | rxFrame hc hp hd he => exact (take_rxChunk ⟨hb, hp⟩ _).trans (congrArg _ (rxChunk_of_no_tag hc hd he))
  | rxPush hc hp hd he hroom => exact (take_rxChunk ⟨hb, hp⟩ _).trans (congrArg _ (rxChunk_of_room hc hd he hroom))
  | rxHold hc hp hd he hfull => exact (take_rxChunk ⟨hb, hp⟩ _).trans (congrArg _ (rxChunk_of_full hc hd he hfull))
  | readFails | pin => exact take_booted hb
  | pushRetry hp hroom => exact take_pushRetry hb hp hroom
  | pop hl hf => rw [take_pop hb hl hf, List.append_assoc]; rfl
  | engage hl => exact take_engage hb hl
  | samplePressed hl hc hv =>
    have hv' : (withSched q s).ovrPin = false := hv
    rw [take_sample hb hl hc, hv']; rfl
  | sampleReleased hl hc hv =>
    have hv' : (withSched q s).ovrPin = true := hv
    rw [take_sample hb hl hc, hv']; rfl
  | relockDone hl hc => exact take_relockDone hb hl hc
  | tickIdle | tickWaiting | tickRelocking =>
    have htick := Outcome.next.inj ((take_booted hbs).symm.trans ht)
    exact (take_booted hb).trans (congrArg _ ((tick_withSched q s).trans (congrArg _ htick)))

/-! ## Every interleaving is a run (R110) -/

/-- An enabled step at the head of the schedule is the machine's next step. -/
theorem step_of_moves {a : Action} {s t : State} (h : Moves a s t) (as : List Action) :
    step (withSched (a :: as) s) = .next (withSched as t) := by
  have hsel : selectAction (withSched (a :: as) s) = (a, withSched as s) :=
    if_pos (by rw [enabled_withSched, h.left, Bool.true_or])
  rw [step, hsel]
  exact take_withSched_of_moves h as

/-- Settles O20, by induction on the interleaving. -/
theorem everyInterleavingIsARun : Obligations.EveryInterleavingIsARun := by
  intro as
  induction as with
  | nil =>
    intro s t h
    obtain rfl := Option.some.inj h
    rfl
  | cons a as ih =>
    intro s t h
    obtain ⟨u, hmove, hrest⟩ := exists_moves_of_takeAll_cons h
    have hstep : step { s with sched := a :: as } = .next { u with sched := as } := step_of_moves hmove as
    rw [List.length_cons, runFor, hstep]
    exact ih u t hrest

/-- Before boot only the boot configuration answers (70_reset_and_hazards.md R118). -/
theorem eq_boot_of_take {a : Action} {s t : State} (hb : s.booted = false) (h : take a s = .next t) : a = .boot := by
  rw [take_unbooted hb] at h
  split at h
  · assumption
  · cases h

/-- Settles O21: the default step is enabled, and so is a head of the schedule that is taken and answers; before boot
that head is the boot configuration. -/
theorem everyStepIsAnEnabledStep : Obligations.EveryStepIsAnEnabledStep := by
  intro s t h
  obtain ⟨-, hsel⟩ | ⟨a, rest, hq, hen, hsel⟩ | ⟨-, -, -, -, -, hsel⟩ := selectAction_cases s
  all_goals rw [step, hsel] at h
  · exact ⟨defaultAction s, s.sched, ⟨defaultAction_enabled s, h⟩, .inl rfl⟩
  · refine ⟨a, rest, ⟨(enabled_withSched a rest s).trans ?_, h⟩, .inr hq⟩
    obtain hen | hb := hen
    · exact hen
    · obtain rfl := eq_boot_of_take (by exact hb) h
      exact congrArg (! ·) hb
  · exact ⟨defaultAction s, s.sched, ⟨defaultAction_enabled s, h⟩, .inl rfl⟩

/-! ## No failure stops the block (R100) -/

theorem exec_answers {s : State} (hb : s.booted = true) (i : Instr) : ∃ t, exec i s = .next t := by
  by_cases hp : s.rxPending = none
  · exact ⟨_, (exec_eq_send i s).trans (send_ready hb hp _)⟩
  · exact ⟨s, exec_held hb hp i⟩

/-- After boot every step answers, but for a SEND of bytes that spell no request. -/
theorem take_answers {a : Action} {s : State} (hb : s.booted = true) (ha : ∀ q, a = .send q → ∃ i, fetch q = .ok i) :
    ∃ t, take a s = .next t := by
  rw [take_booted hb]
  cases a with
  | send q =>
    obtain ⟨i, hi⟩ := ha q rfl
    simpa only [perform, sendRequest, hi] using exec_answers hb i
  | _ => exact ⟨_, rfl⟩

theorem defaultAction_ne_send (q : Request) (s : State) : defaultAction s ≠ .send q := by
  unfold defaultAction
  repeat' split
  all_goals nofun

/-- Settles O22: the next step is the default one, which is no SEND, or the head of the schedule. -/
theorem bootedStepNeverStops : Obligations.BootedStepNeverStops := by
  intro s hb hbytes
  have hdefault : ∃ t, take (defaultAction s) s = .next t :=
    take_answers hb fun q hq => absurd hq (defaultAction_ne_send q s)
  obtain ⟨-, hsel⟩ | ⟨a, rest, hq, -, hsel⟩ | ⟨-, -, -, -, -, hsel⟩ := selectAction_cases s
  all_goals rw [step, hsel]
  · exact hdefault
  · refine take_answers hb fun q hsend => ?_
    cases q with
    | call i => exact ⟨i, rfl⟩
    | frame bytes =>
      cases hd : decode bytes with
      | ok i => exact ⟨i, hd⟩
      | error e => exact absurd hd (hbytes bytes rest e (hsend ▸ hq))
  · exact hdefault

/-! ## Who writes what (R107, R111) -/

section
variable {a : Action} {s t : State}

/-- Only LC's steps write the lock state, the actuator and the current event, and but for TICK the counters. -/
theorem Effect.lock_frame (h : Effect a s t) (ha : isLockStep a = false) :
    t.ls = s.ls ∧ t.act = s.act ∧ t.actPin = s.actPin ∧ t.cur = s.cur
      ∧ (a ≠ .tick → t.pollCnt = s.pollCnt ∧ t.relockCnt = s.relockCnt) := by
  cases h with
  | pop | engage | samplePressed | sampleReleased | relockDone => exact absurd ha nofun
  | tickIdle | tickWaiting | tickRelocking => exact ⟨rfl, rfl, rfl, rfl, fun hne => absurd rfl hne⟩
  | _ => exact ⟨rfl, rfl, rfl, rfl, fun _ => ⟨rfl, rfl⟩⟩

theorem Effect.lastErr_eq (h : Effect a s t) (ha : ∀ c, a ≠ .rxChunk c) : t.lastErr = s.lastErr := by
  cases h with
  | rxError | rxFrame | rxPush | rxHold => exact absurd rfl (ha _)
  | _ => rfl

/-- Only RX_CHUNK and PUSH_RETRY write the pending event, and only they add to the FIFO. -/
theorem Effect.producer_frame (h : Effect a s t) (hrx : ∀ c, a ≠ .rxChunk c) (hretry : a ≠ .pushRetry) :
    t.rxPending = s.rxPending ∧ t.fifo <:+ s.fifo := by
  cases h with
  | rxPush | rxHold => exact absurd rfl (hrx _)
  | pushRetry => exact absurd rfl hretry
  | pop _ hf => exact ⟨rfl, hf ▸ List.suffix_cons _ _⟩
  | _ => exact ⟨rfl, List.suffix_rfl⟩

theorem Effect.tx_eq (h : Effect a s t) (ha : ∀ q, a ≠ .send q) : t.tx = s.tx := by
  cases h with
  | transmit => exact absurd rfl (ha _)
  | _ => rfl

theorem Effect.ovrPin_eq (h : Effect a s t) (ha : ∀ v, a ≠ .pin v) : t.ovrPin = s.ovrPin := by
  cases h with
  | pin v => exact absurd rfl (ha v)
  | _ => rfl

theorem Effect.booted_eq (h : Effect a s t) (ha : a ≠ .boot) : t.booted = s.booted := by
  cases h with
  | boot => exact absurd rfl ha
  | _ => rfl

/-- No step writes a setting or the schedule. -/
theorem Effect.settings_eq (h : Effect a s t) : t.strict = s.strict ∧ t.relLevel = s.relLevel ∧ t.sched = s.sched := by
  cases h <;> exact ⟨rfl, rfl, rfl⟩

end

/-- Settles O56, field by field over the effects. -/
theorem onlyOwnersWrite : Obligations.OnlyOwnersWrite := by
  intro a s t h
  have hef := effect_of_take h
  exact ⟨hef.lock_frame, fun hrx => ⟨hef.lastErr_eq hrx, hef.producer_frame hrx⟩, fifo_prefix_of_effect hef, hef.tx_eq,
    hef.ovrPin_eq, hef.booted_eq, booted_of_effect hef, hef.settings_eq⟩

/-- Settles O40: after boot both steps are what `perform` says of them. -/
theorem pinAndFailedReadsWriteNothing : Obligations.PinAndFailedReadsWriteNothing :=
  fun _ hb => ⟨fun _ => ⟨hb, take_booted hb⟩, take_booted hb⟩

/-! ## A refused request (R104) -/

/-- A refusal leaves every step enabled that was. -/
theorem enabled_refusedState (a : Action) (r : RefuseReason) (s : State) :
    enabled a (refusedState r s) = enabled a s := by
  cases a <;> rfl

/-- The mark is sticky. -/
theorem refused_of_effect {a : Action} {s t : State} (h : Effect a s t) (hs : s.refused = true) : t.refused = true := by
  obtain ⟨g, -, hmark⟩ := h.hist_refused
  exact hmark.mpr (.inl hs)

/-- Settles O59: the packet of an ill-formed request is not built, and what a refusal writes is bookkeeping. -/
theorem refusedRequestEmitsNothing : Obligations.RefusedRequestEmitsNothing := by
  intro i s hs hi
  obtain ⟨r, hr⟩ := requestPacket_of_not_wellFormed hi
  exact ⟨r, refusedState r s, exec_of_requestPacket_error hs hr, rfl, rfl, rfl, fun a => enabled_refusedState a r s,
    fun a u h => refused_of_effect (effect_of_take h) rfl⟩

/-! ## The return to Idle (R114) -/

/-- How many steps of LC and TICKs lead to Idle while the pin is pressed: the rest of the poll period, SAMPLE, the 4000 ms
of the re-lock delay, RELOCK_DONE. -/
def lockRank (s : State) : Nat :=
  match s.ls with
  | .idle => 0
  | .engaged => 4003
  | .waitingForOverride => 4002 + s.pollCnt
  | .relocking => 1 + s.relockCnt

section
variable {s : State}

theorem lockRank_idle (hl : s.ls = .idle) : lockRank s = 0 := by rw [lockRank, hl]

theorem lockRank_engaged (hl : s.ls = .engaged) : lockRank s = 4003 := by rw [lockRank, hl]

theorem lockRank_waiting (hl : s.ls = .waitingForOverride) : lockRank s = 4002 + s.pollCnt := by rw [lockRank, hl]

theorem lockRank_relocking (hl : s.ls = .relocking) : lockRank s = 1 + s.relockCnt := by rw [lockRank, hl]

end

/-- LC stands in `t` where it stood in `s`. -/
def SameLockPlace (s t : State) : Prop := t.ls = s.ls ∧ t.pollCnt = s.pollCnt ∧ t.relockCnt = s.relockCnt

theorem SameLockPlace.trans {s t u : State} (hst : SameLockPlace s t) (htu : SameLockPlace t u) : SameLockPlace s u := by
  obtain ⟨hl, hp, hr⟩ := hst
  obtain ⟨hl', hp', hr'⟩ := htu
  exact ⟨hl'.trans hl, hp'.trans hp, hr'.trans hr⟩

theorem SameLockPlace.lockRank_eq {s t : State} (h : SameLockPlace s t) : lockRank t = lockRank s := by
  obtain ⟨hl, hp, hr⟩ := h
  simp only [lockRank, hl, hp, hr]

theorem SameLockPlace.lockStepDue_eq {s t : State} (h : SameLockPlace s t) (hl : s.ls ≠ .idle) :
    lockStepDue t = lockStepDue s := by
  obtain ⟨hl', hp, hr⟩ := h
  cases hs : s.ls with
  | idle => exact absurd hs hl
  | _ => simp only [lockStepDue, hl', hs, hp, hr]

/-- Outside Idle and with the pin pressed, an enabled step of LC or TICK brings LC nearer to Idle. -/
theorem lockRank_lt_of_effect {a : Action} {s t : State} (h : Effect a s t) (hen : enabled a s = true)
    (ha : isLockStep a = true ∨ a = .tick) (hl : s.ls ≠ .idle) (hv : s.ovrPin = false) : lockRank t < lockRank s := by
  cases h with
  | disabled _ hn => exact absurd (hn.symm.trans hen) nofun
  | pop hl' | tickIdle hl' => exact absurd hl' hl
  | sampleReleased _ _ hv' => exact absurd (hv.symm.trans hv') nofun
  | engage hl' => rw [lockRank_engaged hl', lockRank_waiting rfl]; simp
  | samplePressed hl' => rw [lockRank_waiting hl', lockRank_relocking rfl]; simp only; omega
  | relockDone hl' => rw [lockRank_relocking hl', lockRank_idle rfl]; omega
  | tickWaiting hl' => rw [lockRank_waiting hl', lockRank_waiting (by exact hl')]; simp only; omega
  | tickRelocking hl' => rw [lockRank_relocking hl', lockRank_relocking (by exact hl')]; simp only; omega
  | _ => exact absurd ha nofun

/-- Every other step leaves LC where it stands. -/
theorem sameLockPlace_of_effect {a : Action} {s t : State} (h : Effect a s t)
    (ha : ¬(isLockStep a = true ∨ a = .tick)) : SameLockPlace s t := by
  obtain ⟨hlock, htick⟩ := not_or.mp ha
  obtain ⟨hl, -, -, -, hcnt⟩ := h.lock_frame (Bool.not_eq_true _ ▸ hlock)
  exact ⟨hl, hcnt htick⟩

theorem WeaklyFair.lockStep {path : Nat → State} {steps : Nat → Action} (h : WeaklyFair path steps) {a : Action}
    (ha : isLockStep a = true) : FairFor a path steps := by
  obtain ⟨hpop, hengage, hsample, hrelock, -, -⟩ := h
  cases a with
  | pop => exact hpop
  | engage => exact hengage
  | sample => exact hsample
  | relockDone => exact hrelock
  | _ => cases ha

section
variable {path : Nat → State} {steps : Nat → Action} {n : Nat}

theorem IsRun.booted (hrun : IsRun path steps) (hb : (path n).booted = true) {m : Nat} (hm : n ≤ m) :
    (path m).booted = true := by
  induction m, hm using Nat.le_induction with
  | base => exact hb
  | succ m _ ih => exact booted_of_effect (effect_of_take (hrun m).right) ih

/-- While LC stands still, fairness takes the step of LC that is due, or TICK where none is. -/
theorem exists_lock_step (hfair : WeaklyFair path steps) (hb : ∀ m, n ≤ m → (path m).booted = true)
    (hl : (path n).ls ≠ .idle) (hsame : ∀ m, n ≤ m → SameLockPlace (path n) (path m)) :
    ∃ m, n ≤ m ∧ (isLockStep (steps m) = true ∨ steps m = .tick) := by
  cases hdue : lockStepDue (path n) with
  | some a =>
    have ha := isLockStep_of_due hdue
    obtain ⟨m, hm, rfl⟩ := hfair.lockStep ha n fun m hm =>
      (enabled_lockStep_iff (hb m hm) ha).mpr (((hsame m hm).lockStepDue_eq hl).trans hdue)
    exact ⟨m, hm, .inl ha⟩
  | none =>
    obtain ⟨-, -, -, -, -, htick⟩ := hfair
    obtain ⟨m, hm, ha⟩ := htick n
    exact ⟨m, hm, .inr ha⟩

/-- Until LC takes a step or time passes, it stands still, and then it comes nearer to Idle. -/
theorem exists_lockRank_lt (hrun : IsRun path steps) (hfair : WeaklyFair path steps) (hb : (path n).booted = true)
    (hpin : ∀ m, n ≤ m → (path m).ovrPin = false) (hl : (path n).ls ≠ .idle) :
    ∃ m, n ≤ m ∧ lockRank (path m) < lockRank (path n) := by
  by_contra! hge
  have hstill : ∀ m, n ≤ m → SameLockPlace (path n) (path m) →
      ¬(isLockStep (steps m) = true ∨ steps m = .tick) := by
    intro m hm hsame hact
    have hl' : (path m).ls ≠ .idle := hsame.left ▸ hl
    have hlt := lockRank_lt_of_effect (effect_of_take (hrun m).right) (hrun m).left hact hl' (hpin m hm)
    exact absurd (hge (m + 1) (by omega)) (by rw [hsame.lockRank_eq] at hlt; omega)
  have hsame : ∀ m, n ≤ m → SameLockPlace (path n) (path m) := by
    intro m hm
    induction m, hm using Nat.le_induction with
    | base => exact ⟨rfl, rfl, rfl⟩
    | succ m hm ih => exact ih.trans (sameLockPlace_of_effect (effect_of_take (hrun m).right) (hstill m hm ih))
  obtain ⟨m, hm, hact⟩ := exists_lock_step hfair (fun m => hrun.booted hb) hl hsame
  exact hstill m hm (hsame m hm) hact

end

/-- Settles O48, by induction on the rank. -/
theorem fairRunReturnsToIdle : Obligations.FairRunReturnsToIdle := by
  intro path steps n hrun hfair hb hpin
  induction hk : lockRank (path n) using Nat.strong_induction_on generalizing n with
  | _ k ih =>
    by_cases hl : (path n).ls = .idle
    · exact ⟨n, le_rfl, hl⟩
    · obtain ⟨m, hm, hlt⟩ := exists_lockRank_lt hrun hfair hb hpin hl
      obtain ⟨j, hj, hidle⟩ := ih _ (hk ▸ hlt) m (hrun.booted hb hm) (fun i hi => hpin i (hm.trans hi)) rfl
      exact ⟨j, hm.trans hj, hidle⟩

end Sys2Proof.Machine

/-! # Reset and hazards (spec/70_reset_and_hazards.md)

Reset meets each invariant, and before the boot configuration only boot has a meaning. The three hazards are a frame cut
in two, of which DECODE sees two wrong chunks; a full FIFO behind a held producer, where of all steps only SAMPLE still
records anything; and a short press, which the sum of time and poll counter bounds. -/

namespace Sys2Proof.Machine

open Host

/-! ## Reset (R116) -/

/-- Settles O24: each field is read off the reset state. -/
theorem resetState : Obligations.ResetState :=
  ⟨rfl, rfl, rfl, rfl, rfl, rfl, rfl, rfl, rfl, rfl, rfl, rfl⟩

theorem controllerInv_reset : ControllerInv State.reset :=
  (controllerInv_iff _).mpr (.inl ⟨rfl, rfl, rfl, rfl, rfl⟩)

theorem eventsInv_reset : EventsInv State.reset :=
  ⟨Nat.zero_le _, List.forall_mem_nil _, nofun, nofun⟩

theorem cycleInv_reset : CycleInv State.reset := rfl

theorem outputsInv_reset : OutputsInv State.reset := ⟨rfl, rfl, rfl, rfl⟩

theorem framesInv_reset : FramesInv State.reset :=
  ⟨List.forall_mem_nil _, fun _ => List.forall_mem_nil _⟩

/-- Settles O49, one invariant after the other. -/
theorem resetMeetsTheInvariants : Obligations.ResetMeetsTheInvariants where
  controller := controllerInv_reset
  events := eventsInv_reset
  order := orderInv_reset
  cycle := cycleInv_reset
  outputs := outputsInv_reset
  frames := framesInv_reset

/-! ## Before the boot configuration (R118) -/

section
variable {s : State}

theorem enabled_unbooted {a : Action} (hb : s.booted = false) (ha : a ≠ .boot) : enabled a s = false :=
  Bool.eq_false_iff.mpr fun hen => absurd ((booted_of_enabled ha hen).symm.trans hb) nofun

theorem take_unbooted_of_ne_boot {a : Action} (hb : s.booted = false) (ha : a ≠ .boot) :
    take a s = .fault .stepBeforeBoot :=
  (take_unbooted hb).trans (if_neg ha)

theorem exec_unbooted (hb : s.booted = false) (i : Instr) : exec i s = .fault .stepBeforeBoot :=
  (exec_eq_send i s).trans (if_pos hb)

/-- Before boot the head of the schedule is taken as it stands. -/
theorem step_unbooted {a : Action} {rest : List Action} (hb : s.booted = false) (hq : s.sched = a :: rest) :
    step s = take a { s with sched := rest } := by
  simp [step, selectAction, hq, hb]

end

/-- Settles O23: boot alone answers, and everything else faults, also from the schedule. -/
theorem noStepBeforeBoot : Obligations.NoStepBeforeBoot := by
  intro s hb
  refine ⟨take_boot s, fun a ha => ⟨enabled_unbooted hb ha, take_unbooted_of_ne_boot hb ha⟩, exec_unbooted hb,
    fun a rest hq ha => ?_⟩
  rw [step_unbooted hb hq, take_unbooted_of_ne_boot (by exact hb) ha]

/-! ## A frame cut in two (R120) -/

/-- The head and the length byte of a frame cut after 5 bytes or more still stand, and the length byte asks for more. -/
theorem decodeFrame_take_of_cut {c : List Byte} {k : Nat} (strict : Bool) (h0 : byteAt c 0 = Param.head)
    (hlen : k < (byteAt c 1).toNat + 2) (hk : k ≤ c.length) :
    decodeFrame strict (c.take k) = .error (if k < 5 then .tooShort else .lengthMismatch) := by
  have htake : (c.take k).length = k := List.length_take_of_le hk
  split
  · next hshort => exact decodeFrame_of_short strict (by omega)
  · next hlong =>
    have hbyte0 : byteAt (c.take k) 0 = Param.head := (byteAt_take (by omega)).trans h0
    have hbyte1 : byteAt (c.take k) 1 = byteAt c 1 := byteAt_take (by omega)
    refine decodeFrame_of_not_lengthFits strict (by omega) hbyte0 (Bool.eq_false_iff.mpr fun hfit => ?_)
    obtain ⟨-, -, hroom⟩ := (lengthFits_iff _ _).mp hfit
    rw [hbyte1, htake] at hroom
    omega

/-- A chunk that does not begin with the head byte is dropped, whatever it holds. -/
theorem decodeFrame_of_no_head {c : List Byte} (strict : Bool) (h0 : byteAt c 0 ≠ Param.head) :
    decodeFrame strict c = .error (if c.length < 5 then .tooShort else .badHeader) := by
  split
  · next hshort => exact decodeFrame_of_short strict hshort
  · next hlong => exact decodeFrame_of_bad_head strict (Nat.le_of_not_lt hlong) h0

/-- Settles O9: the first part lacks bytes its length byte asks for, the second lacks the head; and a packet's bytes
decode to the packet as received. -/
theorem splitFrameIsLost : Obligations.SplitFrameIsLost := by
  refine ⟨fun strict c f k hd hlen _ hk => ?_, fun cmd addr p hp => ?_⟩
  · obtain ⟨h0, -, hf⟩ := eq_frameAt_of_decodeFrame_ok hd
    have hlength : f.length = byteAt c 1 := congrArg (·.length) hf
    refine ⟨decodeFrame_take_of_cut strict h0 (by rw [← hlength]; omega) hk.le, fun hhead => ?_⟩
    have hiff : (c.drop k).length < 5 ↔ c.length < k + 5 := by
      rw [List.length_drop]
      omega
    simp only [decodeFrame_of_no_head strict hhead, hiff]
  · refine ⟨_, decodeFrame_frameBytes false hp, ?_⟩
    have hL : (packetOf cmd p addr).received.length.toNat = p.length + 3 :=
      packetOf_length_toNat (cmd := cmd) (addr := addr) hp
    rw [length_frameBytes, hL]

/-! ## A full FIFO with a held producer (R126) -/

/-- LC waits for the override, RD is held behind the full FIFO as it was in `s`, and only samples that read not pressed
were recorded since. -/
def StillStalled (s u : State) : Prop :=
  u.ls = .waitingForOverride ∧ u.fifo = s.fifo ∧ u.rxPending = s.rxPending ∧ u.tx = s.tx
    ∧ ∃ h, u.hist = s.hist ++ h ∧ ∀ ev ∈ h, ev = .sample true

theorem StillStalled.refl {s : State} (hl : s.ls = .waitingForOverride) : StillStalled s s :=
  ⟨hl, rfl, rfl, rfl, [], (List.append_nil _).symm, List.forall_mem_nil _⟩

/-- RD's steps but PUSH_RETRY need nothing pending, PUSH_RETRY needs room, and LC's other steps another lock state. -/
theorem StillStalled.of_effect {a : Action} {s u v : State} {g : List Event} (hfull : s.fifo.length = 10)
    (hpending : s.rxPending ≠ none) (hu : StillStalled s u) (h : Effect a u v) (hhist : v.hist = u.hist ++ g)
    (hg : Event.sample false ∉ g) : StillStalled s v := by
  obtain ⟨hl, hfifo, hrx, htx, past, hpast, hall⟩ := hu
  have hheld : u.rxPending ≠ none := hrx ▸ hpending
  cases h with
  | refuse _ hp | transmit _ hp | rxEmpty hp | rxError _ hp | rxFrame _ hp | rxPush _ hp | rxHold _ hp =>
    exact absurd hp hheld
  | pushRetry _ hroom =>
    rw [hfifo, hfull] at hroom
    exact absurd hroom (Nat.lt_irrefl 10)
  | pop hl' | engage hl' | relockDone hl' => exact absurd (hl.symm.trans hl') nofun
  | samplePressed =>
    obtain rfl := List.append_cancel_left hhist
    exact absurd (List.mem_singleton_self _) hg
  | sampleReleased =>
    exact ⟨hl, hfifo, hrx, htx, past ++ [.sample true], by simp [hpast],
      List.forall_mem_append.mpr ⟨hall, List.forall_mem_singleton.mpr rfl⟩⟩
  | _ => exact ⟨hl, hfifo, hrx, htx, past, hpast, hall⟩

/-- Settles O43, by the step lemma of the stall. -/
theorem fullFifoStallsTheReader : Obligations.FullFifoStallsTheReader := by
  intro as s t h hl hfull hpending
  obtain ⟨g, hg, hkeeps⟩ := takeAll_keeps_until_pressed (P := StillStalled s)
    (fun _ _ _ _ hu => hu.of_effect hfull hpending) (.refl hl) h
  refine ⟨g, hg, fun hnot => ?_⟩
  obtain ⟨-, hfifo, hrx, htx, g', hg', hall⟩ := hkeeps hnot
  obtain rfl := List.append_cancel_left (hg.symm.trans hg')
  exact ⟨hfifo, hrx, htx, hall⟩

/-! ## A long press (R123) -/

theorem Effect.pin_stays_pressed {a : Action} {s t : State} (h : Effect a s t) (ha : a ≠ .pin true)
    (hp : s.ovrPin = false) : t.ovrPin = false := by
  cases h with
  | pin v => exact Bool.eq_false_iff.mpr fun hv => ha (congrArg Action.pin hv)
  | _ => exact hp

/-- Either a sample read pressed since `s`, or the pin is still pressed in the poll period of `s`. -/
def PressSeenOrPolling (s u : State) : Prop :=
  ∃ g, u.hist = s.hist ++ g ∧ (Event.sample false ∈ g ∨ StillPolling s u ∧ u.ovrPin = false)

/-- The poll period of `s` can end only with a SAMPLE, which reads the pin pressed. -/
theorem PressSeenOrPolling.of_effect {a : Action} {s u v : State} (hu : PressSeenOrPolling s u) (h : Effect a u v)
    (ha : a ≠ .pin true) : PressSeenOrPolling s v := by
  obtain ⟨g, hg, hseen⟩ := hu
  obtain ⟨g', hg', -⟩ := h.hist_refused
  refine ⟨g ++ g', by rw [hg', hg, List.append_assoc], ?_⟩
  obtain hseen | ⟨hpolling, hpin⟩ := hseen
  · exact .inl (List.mem_append_left _ hseen)
  by_cases hsample : a = .sample
  · subst hsample
    cases h with
    | disabled => exact .inr ⟨hpolling, hpin⟩
    | samplePressed =>
      obtain rfl := List.append_cancel_left hg'
      exact .inl (List.mem_append_right _ (List.mem_singleton_self _))
    | sampleReleased _ _ hv => exact absurd (hpin.symm.trans hv) nofun
  · exact .inr ⟨hpolling.of_effect h hsample, h.pin_stays_pressed ha hpin⟩

/-- Settles O45: a poll period is at most 100 ms, so after more it has ended. -/
theorem longPressIsSeen : Obligations.LongPressIsSeen := by
  intro as s t h hl hpoll hpin hnot htime
  have hs : PressSeenOrPolling s s := ⟨[], (List.append_nil _).symm, .inr ⟨⟨hl, rfl, rfl⟩, hpin⟩⟩
  obtain ⟨g, hg, hseen | ⟨⟨-, hsum, -⟩, -⟩⟩ := takeAll_keeps (P := PressSeenOrPolling s)
    (fun _ ha _ _ hu hef => hu.of_effect hef (ne_of_mem_of_not_mem ha hnot)) hs h
  · exact ⟨g, hg, hseen⟩
  · omega

end Sys2Proof.Machine

/-! # Requests as frames and as text (spec/30_encoding.md)

The frame of a request holds its code, its address and its payload, which `classify` names again. The text of a request
is cut into words at the spaces, commas and brackets, none of which a mnemonic or a number contains. -/

namespace Sys2Proof.Machine

/-! ## Decoding what was encoded (sections 1 to 4) -/

/-- The name a frame is given is the canonical one (R44, R45). -/
theorem classify_of_canonical {i : Instr} (hwf : i.wellFormed = true) (hc : i.canonical = true) :
    classify i.code i.addr i.payload = i := by
  cases i with
  | reset a p => exact Laws.ClassifiesBack.reset a p hwf hc
  | getFirmwareVersion a p => exact Laws.ClassifiesBack.getFirmwareVersion a p hwf hc
  | setBaudRate a p => exact Laws.ClassifiesBack.setBaudRate a p hwf hc
  | setFrequencyRegion a p => exact Laws.ClassifiesBack.setFrequencyRegion a p hwf hc
  | getFrequencyRegion a p => exact Laws.ClassifiesBack.getFrequencyRegion a p hwf hc
  | setWorkingAntenna a p => exact Laws.ClassifiesBack.setWorkingAntenna a p hwf hc
  | getWorkingAntenna a p => exact Laws.ClassifiesBack.getWorkingAntenna a p hwf hc
  | setOutputPower a p => exact Laws.ClassifiesBack.setOutputPower a p hwf hc
  | getOutputPower a p => exact Laws.ClassifiesBack.getOutputPower a p hwf hc
  | setDrmMode a p => exact Laws.ClassifiesBack.setDrmMode a p hwf hc
  | getDrmMode a p => exact Laws.ClassifiesBack.getDrmMode a p hwf hc
  | setAntDetectMode a p => exact Laws.ClassifiesBack.setAntDetectMode a p hwf hc
  | getAntDetectMode a p => exact Laws.ClassifiesBack.getAntDetectMode a p hwf hc
  | setReaderAddress a p => exact Laws.ClassifiesBack.setReaderAddress a p hwf hc
  | startRealtimeInventory a p => exact Laws.ClassifiesBack.startRealtimeInventory a p hwf hc
  | startNamedInventory a p => exact Laws.ClassifiesBack.startNamedInventory a p hwf hc
  | encode c a p => exact Laws.ClassifiesBack.encode c a p hwf hc

/-- Settles O15: the decoder reads back the three fields of the frame, and classifies them as the request. -/
theorem requestFrameDecodesBack : Obligations.RequestFrameDecodesBack := by
  intro i hwf hc
  rw [encode, decode_frameBytes i.code i.addr (payload_length_le_of_wellFormed hwf), classify_of_canonical hwf hc]

/-! ## Hex digits (section 5) -/

theorem hexVal_hexDigit {n : Nat} (hn : n < 16) : hexVal (hexDigit n) = some n := by
  have h : ∀ k : Fin 16, hexVal (hexDigit k) = some k.val := by decide
  exact h ⟨n, hn⟩

/-- The two digits of a byte give it back. -/
theorem ofNat_digits (b : Byte) : BitVec.ofNat 8 (16 * (b.toNat / 16) + b.toNat % 16) = b := by
  rw [Nat.div_add_mod, BitVec.ofNat_toNat, BitVec.setWidth_eq]

theorem hexVal_high (b : Byte) : hexVal (hexDigit (b.toNat / 16)) = some (b.toNat / 16) :=
  hexVal_hexDigit (Nat.div_lt_of_lt_mul b.isLt)

theorem hexVal_low (b : Byte) : hexVal (hexDigit (b.toNat % 16)) = some (b.toNat % 16) :=
  hexVal_hexDigit (Nat.mod_lt _ (by decide))

@[simp] theorem parsePair_pairText (b : Byte) : parsePair (pairText b) = some b := by
  simp only [pairText, parsePair, hexVal_high, hexVal_low, ofNat_digits]

@[simp] theorem parseByte_byteText (b : Byte) : parseByte (byteText b) = some b := by
  have hrun : parseNumber (byteText b) = some (16 * (b.toNat / 16) + b.toNat % 16) := by
    simp only [byteText, pairText, parseNumber, hexRun, hexVal_high, hexVal_low, Nat.mul_zero, Nat.zero_add]
  have hlt : 16 * (b.toNat / 16) + b.toNat % 16 < 256 := (Nat.div_add_mod _ _).trans_lt b.isLt
  simp only [parseByte, hrun, if_pos hlt, ofNat_digits]

/-! ## Words and marks -/

/-- A character that neither ends a word nor is a mark. -/
def isWordChar (c : Char) : Bool := !(c == ' ' || c == ',' || c == '[' || c == ']')

/-- Word characters are added to the word being read. -/
theorem tokenize_append {w : List Char} (hw : w.all isWordChar = true) (acc rest : List Char) :
    tokenize acc (w ++ rest) = tokenize (acc ++ w) rest := by
  induction w generalizing acc with
  | nil => rw [List.append_nil, List.nil_append]
  | cons c w ih =>
    obtain ⟨hc, hw⟩ := Bool.and_eq_true_iff.mp hw
    simp only [isWordChar, Bool.not_eq_true', Bool.or_eq_false_iff, beq_eq_false_iff_ne] at hc
    obtain ⟨⟨⟨hspace, hcomma⟩, hopen⟩, hclose⟩ := hc
    simp only [List.cons_append, tokenize, hspace, hcomma, hopen, hclose, if_false]
    rw [ih hw, List.append_assoc, List.singleton_append]

/-- A word of a line. -/
def isWord (w : List Char) : Bool := !w.isEmpty && w.all isWordChar

theorem flushWord_word {w : List Char} (hw : isWord w = true) (ts : List Token) : flushWord w ts = .word w :: ts := by
  refine if_neg fun hnil => ?_
  cases hnil
  cases hw

theorem all_isWordChar {w : List Char} (hw : isWord w = true) : w.all isWordChar = true :=
  (Bool.and_eq_true_iff.mp hw).right

/-! A word ends at a space, at a comma and at the end of the line. -/

theorem tokenize_word_end {w : List Char} (hw : isWord w = true) : tokenize [] w = [.word w] := by
  have h := tokenize_append (all_isWordChar hw) [] []
  rw [List.append_nil] at h
  exact h.trans (flushWord_word hw [])

theorem tokenize_word_space {w : List Char} (hw : isWord w = true) (rest : List Char) :
    tokenize [] (w ++ ' ' :: rest) = .word w :: tokenize [] rest :=
  (tokenize_append (all_isWordChar hw) [] _).trans (flushWord_word hw _)

theorem tokenize_word_comma {w : List Char} (hw : isWord w = true) (rest : List Char) :
    tokenize [] (w ++ ',' :: ' ' :: rest) = .word w :: .comma :: tokenize [] rest :=
  (tokenize_append (all_isWordChar hw) [] _).trans (flushWord_word hw _)

theorem isWordChar_hexDigit {n : Nat} (hn : n < 16) : isWordChar (hexDigit n) = true := by
  have h : ∀ k : Fin 16, isWordChar (hexDigit k) = true := by decide
  exact h ⟨n, hn⟩

theorem isWord_pairText (b : Byte) : isWord (pairText b) = true := by
  have hhigh := isWordChar_hexDigit (Nat.div_lt_of_lt_mul b.isLt : b.toNat / 16 < 16)
  have hlow := isWordChar_hexDigit (Nat.mod_lt b.toNat (by decide : 0 < 16))
  simp [isWord, pairText, hhigh, hlow]

theorem isWord_byteText (b : Byte) : isWord (byteText b) = true := isWord_pairText b

theorem isWord_mnemonicText (i : Instr) : isWord (mnemonicText i) = true := by cases i <;> rfl

/-! ## Operands and lists -/

/-- The tokens of a list of bytes. -/
theorem tokenize_listText (p : List Byte) :
    tokenize [] (listText p) = p.map (fun b => .word (pairText b)) ++ [.closeList] := by
  induction p with
  | nil => rfl
  | cons b p ih =>
    rw [listText, tokenize_word_space (isWord_pairText b), ih]
    rfl

theorem parseList_listText (p : List Byte) : parseList (tokenize [] (listText p)) = some p := by
  rw [tokenize_listText]
  induction p with
  | nil => rfl
  | cons b p ih => simp only [List.map_cons, List.cons_append, parseList, parsePair_pairText, ih]

/-- The tokens of a first operand and those after it. -/
theorem tokenize_operands (addr : Byte) (p : List Byte) :
    tokenize [] (byteText addr ++ operandsText p)
      = .word (byteText addr) :: p.flatMap fun b => [.comma, .word (byteText b)] := by
  induction p generalizing addr with
  | nil => rw [operandsText, List.append_nil]; exact tokenize_word_end (isWord_byteText addr)
  | cons b p ih =>
    rw [operandsText, tokenize_word_comma (isWord_byteText addr), ih]
    rfl

theorem parseOperands_tokens (p : List Byte) :
    parseOperands (p.flatMap fun b => [.comma, .word (byteText b)]) = some p := by
  induction p with
  | nil => rfl
  | cons b p ih =>
    simp only [List.flatMap_cons, List.cons_append, List.nil_append, parseOperands, parseByte_byteText, ih]

/-! ## Requests -/

/-- A line that begins with a catalog mnemonic is a catalog request: no other line's first word is one. -/
theorem parseTokens_catalog {w : List Char} {k : Byte → List Byte → Instr} (hw : findName w catalogNames = some k)
    (addr : Byte) (p : List Byte) :
    parseTokens (.word w :: tokenize [] (byteText addr ++ operandsText p)) = some [.send (.call (k addr p))] := by
  have hother : ∀ v : List Char, findName v catalogNames = none → w ≠ v := by
    rintro v hv rfl
    cases hv.symm.trans hw
  rw [parseTokens, if_neg (hother _ rfl), if_neg (hother _ rfl), if_neg (hother _ rfl), if_neg (hother _ rfl),
    tokenize_operands]
  simp only [parseCatalog, hw, parseByte_byteText, parseOperands_tokens, Option.map_some]

theorem parseTokens_encode (cmd addr : Byte) (p : List Byte) :
    parseTokens (tokenize [] (requestText (.encode cmd addr p))) = some [.send (.call (.encode cmd addr p))] := by
  have htokens : tokenize [] (requestText (.encode cmd addr p))
      = .word "ENCODE".toList :: .word (byteText cmd) :: .comma :: .word (byteText addr) :: .comma :: .openList
        :: tokenize [] (listText p) := by
    simp only [requestText]
    rw [tokenize_word_space (isWord_mnemonicText _),
      tokenize_word_comma (isWord_byteText cmd), tokenize_word_comma (isWord_byteText addr)]
    rfl
  rw [htokens, parseTokens, if_pos rfl]
  simp only [parseEncode, parseByte_byteText, parseList_listText, Option.map_some]

/-- Settles O18: the first word of the text chooses the form, and each operand is read back from its digits. -/
theorem requestTextAssemblesBack : Obligations.RequestTextAssemblesBack := by
  intro i
  cases i with
  | encode cmd addr p => exact parseTokens_encode cmd addr p
  | _ =>
    simp only [requestText]
    rw [tokenize_word_space (isWord_mnemonicText _)]
    exact parseTokens_catalog rfl _ _

end Sys2Proof.Machine

/-! # The machine's own steps and runs (spec/60_exceptions.md)

A step is what the head of the schedule does, or, where that head has to wait, the step of LC that is due. A run is put
together from shorter ones: one lock cycle is the release, the polls that read not pressed, and the re-lock delay. -/

namespace Sys2Proof.Machine

open Host

/-! ## The step that comes next (R110) -/

section
variable {s : State}

/-- An enabled head of the schedule is taken, from the state with the schedule moved on. -/
theorem step_of_enabled_head {a : Action} {rest : List Action} (hq : s.sched = a :: rest) (ha : enabled a s = true) :
    step s = take a { s with sched := rest } := by
  rw [step, selectAction, hq]
  simp only [ha, Bool.true_or, if_true]

theorem step_send {q : Request} {rest : List Action} (hs : sendReady s) (hq : s.sched = .send q :: rest) :
    step s = sendRequest q { s with sched := rest } :=
  (step_of_enabled_head hq ((enabled_send_iff q s).mpr hs)).trans (take_booted hs.left)

theorem sendRequest_of_fetch_ok {q : Request} {i : Instr} (h : fetch q = .ok i) (s : State) :
    sendRequest q s = exec i s := by rw [sendRequest, h]

theorem sendRequest_of_fetch_error {q : Request} {e : DecodeError} (h : fetch q = .error e) (s : State) :
    sendRequest q s = .refused (.noRequest e) := by rw [sendRequest, h]

end

theorem decodeTableWord_eq_some_iff (nbits w : Nat) (i : Instr) :
    decodeTableWord nbits w = some i ↔ decode (tableFrame nbits w) = .ok i := by
  unfold decodeTableWord
  cases decode (tableFrame nbits w) <;> simp

/-- Settles O19: a ready SEND at the head is the next step, and `withFetchWord` puts one there. -/
theorem stepRunsTheDecodedRequest : Obligations.StepRunsTheDecodedRequest := by
  refine ⟨fun s bytes rest hs hq => ⟨fun i hi => ?_, fun e he => ?_⟩, fun s i rest hs hq => ?_,
    fun s nbits w i hi => ?_⟩
  · exact (step_send hs hq).trans (sendRequest_of_fetch_ok (q := .frame bytes) hi _)
  · exact (step_send hs hq).trans (sendRequest_of_fetch_error (q := .frame bytes) he _)
  · exact (step_send hs hq).trans (sendRequest_of_fetch_ok rfl _)
  · have hdecode : fetch (.frame (tableFrame nbits w)) = .ok i := (decodeTableWord_eq_some_iff nbits w i).mp hi
    exact (step_send ⟨rfl, rfl⟩ rfl).trans (sendRequest_of_fetch_ok hdecode _)

/-! ## Runs -/

theorem runFor_cons {n : Nat} {s t u : State} (h : step s = .next t) (hrest : runFor n t = .next u) :
    runFor (n + 1) s = .next u := by rwa [runFor, h]

theorem runFor_one {s t : State} (h : step s = .next t) : runFor 1 s = .next t := runFor_cons h rfl

/-- A run of `m + n` steps is one of `m` and then one of `n`. -/
theorem runFor_trans {m n : Nat} {s t u : State} (hm : runFor m s = .next t) (hn : runFor n t = .next u) :
    runFor (m + n) s = .next u := by
  induction m generalizing s with
  | zero =>
    obtain rfl := Outcome.next.inj hm
    rwa [Nat.zero_add]
  | succ m ih =>
    rw [Nat.succ_add]
    unfold runFor at hm ⊢
    split at hm
    · exact ih hm
    · cases hm
    · cases hm

/-- What every step of the machine keeps holds at the end of every run. -/
theorem runFor_keeps {P : State → Prop} (hstep : ∀ s t, P s → step s = .next t → P t) {n : Nat} {s t : State}
    (hs : P s) (h : runFor n s = .next t) : P t := by
  induction n generalizing s with
  | zero => exact Outcome.next.inj h ▸ hs
  | succ n ih =>
    unfold runFor at h
    split at h
    · next u hu => exact ih (hstep s u hs hu) h
    · cases h
    · cases h

/-- Every step keeps every invariant. -/
theorem machineInv_of_step {s t : State} (hs : MachineInv s) (h : step s = .next t) : MachineInv t where
  controller := stepKeepsControllerInv s t hs.controller h
  events := stepKeepsValueShapes.left s t hs.events h
  order := fifoDeliversInOrder.right.left s t hs.order h
  cycle := stepKeepsCycleInv s t hs.cycle h
  outputs := stepKeepsOutputsInv s t hs.outputs h
  frames := stepKeepsValueShapes.right s t hs.frames h

/-- No invariant speaks of the schedule. -/
theorem machineInv_withSched {s : State} (hs : MachineInv s) (q : List Action) : MachineInv (withSched q s) where
  controller := hs.controller.congr rfl rfl rfl rfl rfl
  events := hs.events.congr rfl rfl rfl
  order := hs.order.congr rfl rfl rfl
  cycle := hs.cycle
  outputs := hs.outputs.congr rfl rfl rfl rfl rfl rfl rfl rfl
  frames := hs.frames.congr rfl rfl

/-- Settles O55: reset meets the invariants under any schedule, and every step keeps them. -/
theorem reachedStatesMeetTheInvariants : Obligations.ReachedStatesMeetTheInvariants := by
  intro q n t h
  exact runFor_keeps (fun _ _ => machineInv_of_step) (machineInv_withSched resetMeetsTheInvariants q) h

/-! ## One lock cycle, run (43_lock_controller.md R95, R98) -/

/-- Nothing, or time, is scheduled next: the step of LC that is due goes first (R94). -/
def yieldsToLock (q : List Action) : Prop := q = [] ∨ ∃ rest, q = .tick :: rest

section
variable {s : State}

theorem defaultAction_of_due {a : Action} (hb : s.booted = true) (hdue : lockStepDue s = some a) :
    defaultAction s = a := by
  unfold lockStepDue at hdue
  split at hdue
  case h_1 hl =>
    obtain ⟨hf, ⟨⟩⟩ := Option.ite_none_left_eq_some.mp hdue
    simp [defaultAction, hb, popEnabled, hl, hf]
  case h_2 hl =>
    obtain ⟨⟩ := hdue
    simp [defaultAction, hb, popEnabled, engageEnabled, hl]
  case h_3 hl =>
    obtain ⟨hc, ⟨⟩⟩ := Option.ite_none_right_eq_some.mp hdue
    simp [defaultAction, hb, popEnabled, engageEnabled, sampleEnabled, hl, hc]
  case h_4 hl =>
    obtain ⟨hc, ⟨⟩⟩ := Option.ite_none_right_eq_some.mp hdue
    simp [defaultAction, hb, popEnabled, engageEnabled, sampleEnabled, relockDoneEnabled, hl, hc]

theorem step_of_due {a : Action} {t : State} (hb : s.booted = true) (hq : yieldsToLock s.sched)
    (hdue : lockStepDue s = some a) (ht : take a s = .next t) : step s = .next t := by
  have hdefault := defaultAction_of_due hb hdue
  obtain hq | ⟨rest, hq⟩ := hq
  · simp [step, selectAction, hq, hdefault, ht]
  · simp [step, selectAction, hq, hdefault, enabled_tick_eq_false hb hdue, hb, ht]

theorem step_pop {e : TagEvent} {rest : List TagEvent} (hb : s.booted = true) (hq : yieldsToLock s.sched)
    (hl : s.ls = .idle) (hf : s.fifo = e :: rest) :
    step s = .next
      { s with
        fifo := rest, cur := some e, act := .released, actPin := s.relLevel, ls := .engaged
        hist := s.hist ++ [.popped e, .drive .released] } :=
  step_of_due hb hq (by simp [lockStepDue, hl, hf]) (take_pop hb hl hf)

theorem step_engage (hb : s.booted = true) (hq : yieldsToLock s.sched) (hl : s.ls = .engaged) :
    step s = .next { s with ls := .waitingForOverride, pollCnt := 0 } :=
  step_of_due hb hq (by rw [lockStepDue, hl]) (take_engage hb hl)

theorem lockStepDue_sample (hl : s.ls = .waitingForOverride) (hc : s.pollCnt = 0) : lockStepDue s = some .sample := by
  simp [lockStepDue, hl, hc]

theorem step_sample_released (hb : s.booted = true) (hq : yieldsToLock s.sched) (hl : s.ls = .waitingForOverride)
    (hc : s.pollCnt = 0) (hv : s.ovrPin = true) :
    step s = .next { s with hist := s.hist ++ [.sample true], pollCnt := 100 } := by
  obtain ⟨-, hsample⟩ := sampleReadsThePinOnce s hb
  exact step_of_due hb hq (lockStepDue_sample hl hc) ((hsample hl hc).right hv)

theorem step_sample_pressed (hb : s.booted = true) (hq : yieldsToLock s.sched) (hl : s.ls = .waitingForOverride)
    (hc : s.pollCnt = 0) (hv : s.ovrPin = false) :
    step s = .next { s with hist := s.hist ++ [.sample false], ls := .relocking, relockCnt := 4000 } := by
  obtain ⟨-, hsample⟩ := sampleReadsThePinOnce s hb
  exact step_of_due hb hq (lockStepDue_sample hl hc) ((hsample hl hc).left hv)

theorem step_relockDone (hb : s.booted = true) (hq : yieldsToLock s.sched) (hl : s.ls = .relocking)
    (hc : s.relockCnt = 0) :
    step s = .next
      { s with
        act := .secured, actPin := !s.relLevel, cur := none, ls := .idle
        hist := s.hist ++ [.drive .secured] } :=
  step_of_due hb hq (by simp [lockStepDue, hl, hc]) (take_relockDone hb hl hc)

theorem step_pin {v : Bool} {q : List Action} (hb : s.booted = true) (hq : s.sched = .pin v :: q) :
    step s = .next { s with ovrPin := v, sched := q } :=
  (step_of_enabled_head hq hb).trans (take_booted hb)

/-- Scheduled time in the poll period (R93). -/
theorem step_tick_waiting {n : Nat} {q : List Action} (hb : s.booted = true) (hl : s.ls = .waitingForOverride)
    (hc : s.pollCnt = n + 1) (hq : s.sched = .tick :: q) :
    step s = .next { s with now := s.now + 1, pollCnt := n, sched := q } := by
  have hdue : lockStepDue s = none := by simp [lockStepDue, hl, hc]
  have hmoves : Moves .tick s { s with now := s.now + 1, pollCnt := n } := by
    refine ⟨(enabled_tick_iff hb).mpr hdue, ?_⟩
    obtain ⟨hl', -⟩ | ⟨-, -, ht⟩ | ⟨hl', -, -⟩ := take_tick hb ((enabled_tick_iff hb).mpr hdue)
    · cases hl.symm.trans hl'
    · rw [ht, hc, Nat.add_sub_cancel]
    · cases hl.symm.trans hl'
  rw [step_of_enabled_head hq hmoves.left]
  exact take_withSched_of_moves hmoves q

/-- Time in the re-lock delay, with nothing scheduled (R93; the order of 95_test_vectors.md L3). -/
theorem step_tick_relocking {n : Nat} (hb : s.booted = true) (hp : s.rxPending = none) (hq : s.sched = [])
    (hl : s.ls = .relocking) (hc : s.relockCnt = n + 1) :
    step s = .next { s with now := s.now + 1, relockCnt := n } := by
  have hdue : lockStepDue s = none := by simp [lockStepDue, hl, hc]
  have hset : settled s = true :=
    settled_iff.mpr ⟨by simp [pushRetryEnabled, hp], lcEnabled_eq_false_iff_due.mpr hdue⟩
  rw [step_of_settled hb hset hq]
  obtain ⟨hl', -⟩ | ⟨hl', -, -⟩ | ⟨-, -, ht⟩ := take_tick hb ((enabled_tick_iff hb).mpr hdue)
  · cases hl.symm.trans hl'
  · cases hl.symm.trans hl'
  · rw [ht, hc, Nat.add_sub_cancel]

/-! The parts of the cycle. Where a part is repeated, its state is written with the fields that it changes. -/

theorem runFor_poll_ticks (hb : s.booted = true) (hl : s.ls = .waitingForOverride) (now n : Nat) (q : List Action) :
    runFor n { s with now := now, pollCnt := n, sched := List.replicate n .tick ++ q }
      = .next { s with now := now + n, pollCnt := 0, sched := q } := by
  induction n generalizing now with
  | zero => rfl
  | succ n ih =>
    rw [show now + (n + 1) = now + 1 + n by omega]
    exact runFor_cons (step_tick_waiting hb hl rfl rfl) (ih (now + 1))

theorem runFor_relock_ticks (hb : s.booted = true) (hp : s.rxPending = none) (hq : s.sched = [])
    (hl : s.ls = .relocking) (now n : Nat) :
    runFor n { s with now := now, relockCnt := n } = .next { s with now := now + n, relockCnt := 0 } := by
  induction n generalizing now with
  | zero => rfl
  | succ n ih =>
    rw [show now + (n + 1) = now + 1 + n by omega]
    exact runFor_cons (step_tick_relocking hb hp hq hl rfl) (ih (now + 1))

/-- A sample that reads not pressed, and its poll period (R90, R93). -/
theorem runFor_poll (hb : s.booted = true) (hl : s.ls = .waitingForOverride) (hv : s.ovrPin = true) (now : Nat)
    (h : List Event) (q : List Action) :
    runFor 101 { s with now := now, pollCnt := 0, hist := h, sched := List.replicate 100 .tick ++ q }
      = .next { s with now := now + 100, pollCnt := 0, hist := h ++ [.sample true], sched := q } := by
  have hticks := runFor_poll_ticks (s := { s with hist := h ++ [.sample true] }) hb hl now 100 q
  exact runFor_cons (step_sample_released hb (.inr ⟨_, rfl⟩) hl rfl hv) hticks

theorem runFor_polls (hb : s.booted = true) (hl : s.ls = .waitingForOverride) (hv : s.ovrPin = true) (now n : Nat)
    (h : List Event) (q : List Action) :
    runFor (101 * n) { s with now := now, pollCnt := 0, hist := h, sched := List.replicate (100 * n) .tick ++ q }
      = .next
        { s with now := now + 100 * n, pollCnt := 0, hist := h ++ List.replicate n (.sample true), sched := q } := by
  induction n generalizing now h with
  | zero => simp [runFor]
  | succ n ih =>
    have hticks : List.replicate (100 * (n + 1)) Action.tick ++ q
        = List.replicate 100 .tick ++ (List.replicate (100 * n) .tick ++ q) := by
      rw [← List.append_assoc, List.replicate_append_replicate, Nat.mul_succ, Nat.add_comm]
    have hnow : now + 100 * (n + 1) = now + 100 + 100 * n := by omega
    have hhist : h ++ List.replicate (n + 1) (.sample true) = h ++ [.sample true] ++ List.replicate n (.sample true) :=
      List.append_cons ..
    rw [hticks, hnow, hhist, Nat.mul_succ, Nat.add_comm]
    exact runFor_trans (runFor_poll hb hl hv now h _) (ih (now + 100) (h ++ [.sample true]))

/-- A sample that reads pressed, the re-lock delay, and RELOCK_DONE (R90, R92). -/
theorem runFor_relock (hb : s.booted = true) (hp : s.rxPending = none) (hq : s.sched = [])
    (hl : s.ls = .waitingForOverride) (hc : s.pollCnt = 0) (hv : s.ovrPin = false) :
    runFor 4002 s = .next
      { s with
        act := .secured, actPin := !s.relLevel, cur := none, ls := .idle, now := s.now + 4000, relockCnt := 0
        hist := s.hist ++ [.sample false] ++ [.drive .secured] } := by
  have hdelay := runFor_relock_ticks (s := { s with hist := s.hist ++ [.sample false], ls := .relocking })
    hb hp hq rfl s.now 4000
  have hrun := runFor_trans hdelay (runFor_one (step_relockDone hb (.inl hq) rfl rfl))
  exact runFor_cons (step_sample_pressed hb (.inl hq) hl hc hv) hrun

/-- Polls that read not pressed, the press when the next sample is due, and the re-lock. -/
theorem runFor_override (hb : s.booted = true) (hp : s.rxPending = none) (hl : s.ls = .waitingForOverride)
    (hv : s.ovrPin = true) (now n : Nat) (h : List Event) :
    runFor (101 * n + 4003)
        { s with now := now, pollCnt := 0, hist := h, sched := List.replicate (100 * n) .tick ++ [.pin false] }
      = .next
        { s with
          act := .secured, actPin := !s.relLevel, cur := none, ls := .idle, pollCnt := 0, relockCnt := 0
          now := now + 100 * n + 4000, ovrPin := false, sched := []
          hist := h ++ List.replicate n (.sample true) ++ [.sample false] ++ [.drive .secured] } := by
  refine runFor_trans (runFor_polls hb hl hv now n h [.pin false]) (runFor_cons (step_pin hb rfl) ?_)
  exact runFor_relock hb hp rfl hl rfl rfl

end

/-- `s` after POP and ENGAGE: the lock is released, and the first sample is due (R88, R89). -/
def firstSampleDue (e : TagEvent) (rest : List TagEvent) (s : State) : State :=
  { s with
    fifo := rest, cur := some e, act := .released, actPin := s.relLevel, ls := .waitingForOverride, pollCnt := 0
    hist := s.hist ++ [.popped e, .drive .released] }

theorem runFor_release {s : State} {e : TagEvent} {rest : List TagEvent} (hb : s.booted = true)
    (hq : yieldsToLock s.sched) (hl : s.ls = .idle) (hf : s.fifo = e :: rest) :
    runFor 2 s = .next (firstSampleDue e rest s) :=
  runFor_cons (step_pop hb hq hl hf) (runFor_one (step_engage hb hq rfl))

/-- Settles O47. For k = 1 the pin is pressed before the POP; else POP and ENGAGE go before the scheduled ticks, and the
pin is pressed after the last poll. -/
theorem lockCycleRunsToCompletion : Obligations.LockCycleRunsToCompletion := by
  intro k s e rest hk hs _ hl hf hv hq
  obtain ⟨hb, hp⟩ := hs
  obtain ⟨n, rfl⟩ := Nat.exists_eq_add_of_le' hk
  rw [Nat.add_sub_cancel] at hq ⊢
  cases n with
  | zero =>
    have hrelease := runFor_release (s := { s with ovrPin := false, sched := [] }) hb (.inl rfl) hl hf
    have hrelock := runFor_relock (s := firstSampleDue e rest { s with ovrPin := false, sched := [] })
      hb hp rfl rfl rfl rfl
    have hrun := runFor_cons (step_pin hb hq) (runFor_trans hrelease hrelock)
    exact ⟨_, hrun, rfl, rfl, rfl, rfl, rfl, rfl, by simp [firstSampleDue]⟩
  | succ n =>
    have hrelease := runFor_release hb (.inr ⟨_, hq⟩) hl hf
    have hoverride := runFor_override (s := firstSampleDue e rest s) hb hp rfl hv s.now (n + 1)
      (s.hist ++ [.popped e, .drive .released])
    rw [← hq] at hoverride
    have hcount : 100 * (n + 1) + (n + 1 + 1) + 4004 = 2 + (101 * (n + 1) + 4003) := by omega
    rw [hcount]
    exact ⟨_, runFor_trans hrelease hoverride, rfl, rfl, rfl, rfl, rfl, Nat.add_assoc .., by simp⟩

end Sys2Proof.Machine
